-- ==== Sys2Proof/Word.lean ====
section
/-! DEFINITION. The word types of the CHIP-8 core: spec/10_state.md R10, R14, R15 and spec/30_encoding.md R50 give the widths. -/

namespace Sys2Proof

/-- A memory byte, a general register or a timer (R10, R18, R19, R30). All values are unsigned. -/
abbrev Byte := BitVec 8

/-- A 12-bit byte address: what `pc` and `I` hold, and the immediate `nnn` (R14, R15, R52). -/
abbrev Addr := BitVec 12

/-- One instruction word; bit 15 is the most significant (R50, R51). -/
abbrev Opcode := BitVec 16

/-- The number of a general register: every 4-bit field value names one (R10). -/
abbrev Reg := Fin 16

/-- The number of the flag register `VF` (R3 `FLAG`, R12). -/
abbrev VF : Reg := 15

end Sys2Proof
end

