-- ==== Sys2Proof/Syntax.lean ====
section
/-! DEFINITION. The instructions: one constructor for each of the 33 rows of spec/opcode_table.json, in the order of
spec/30_encoding.md R56, with the operands of R51 to R53 (`x`, `y` register numbers, `nn` a byte, `nnn` an address, `n`
the sprite height, a count). -/

namespace Sys2Proof

/-- The instruction set (R56). SHR and SHL keep their unused `y` field, so that no bit of an encoding is dropped. -/
inductive Instr where
  | cls                                     -- 00E0 clear-screen, R110
  | ret                                     -- 00EE return, R70
  | jp (nnn : Addr)                         -- 1nnn jump, R71
  | call (nnn : Addr)                       -- 2nnn call, R72
  | seImm (x : Reg) (nn : Byte)             -- 3xnn skip-if-equal reg,imm, R73
  | sneImm (x : Reg) (nn : Byte)            -- 4xnn skip-if-not-equal reg,imm, R74
  | seReg (x y : Reg)                       -- 5xy0 skip-if-equal reg,reg, R75
  | ldImm (x : Reg) (nn : Byte)             -- 6xnn load reg,imm, R80
  | addImm (x : Reg) (nn : Byte)            -- 7xnn add reg,imm, R81
  | ldReg (x y : Reg)                       -- 8xy0 load reg,reg, R82
  | or (x y : Reg)                          -- 8xy1 bitwise OR, R83
  | and (x y : Reg)                         -- 8xy2 bitwise AND, R84
  | xor (x y : Reg)                         -- 8xy3 bitwise XOR, R85
  | addReg (x y : Reg)                      -- 8xy4 add reg,reg, R86
  | sub (x y : Reg)                         -- 8xy5 sub reg,reg, R87
  | shr (x y : Reg)                         -- 8xy6 shift-right, R88; y is ignored
  | subn (x y : Reg)                        -- 8xy7 subn reg,reg, R89
  | shl (x y : Reg)                         -- 8xyE shift-left, R90; y is ignored
  | sneReg (x y : Reg)                      -- 9xy0 skip-if-not-equal reg,reg, R76
  | ldI (nnn : Addr)                        -- Annn load index, R100
  | jpV0 (nnn : Addr)                       -- Bnnn jump-indexed, R77
  | rnd (x : Reg) (nn : Byte)               -- Cxnn random, R125
  | drw (x y : Reg) (n : Nat)               -- Dxyn draw-sprite, R111; n counts rows
  | skp (x : Reg)                           -- Ex9E skip-if-key-pressed, R120
  | sknp (x : Reg)                          -- ExA1 skip-if-key-not-pressed, R121
  | ldVxDt (x : Reg)                        -- Fx07 load reg,delay-timer, R122
  | ldDtVx (x : Reg)                        -- Fx15 load delay-timer,reg, R123
  | ldStVx (x : Reg)                        -- Fx18 load sound-timer,reg, R124
  | addI (x : Reg)                          -- Fx1E add index,reg, R101
  | ldF (x : Reg)                           -- Fx29 load index,font-glyph, R102
  | ldB (x : Reg)                           -- Fx33 store-bcd, R103
  | ldMemVx (x : Reg)                       -- Fx55 store-registers, R104
  | ldVxMem (x : Reg)                       -- Fx65 load-registers, R105
  deriving DecidableEq, Repr

end Sys2Proof
end

