-- ==== Sys2Proof/Decode.lean ====
section
/-! DEFINITION. The decoder and the encoder: spec/30_encoding.md R50 to R58 and its section 7, and the rows of
spec/opcode_table.json. The decoder is keyed on the four nibbles; a word that matches no row is rejected by name. -/

namespace Sys2Proof

/-! ## Fields (R51) -/

/-- `a`, bits 15 to 12: the major opcode. -/
def fieldA (op : Opcode) : BitVec 4 := op.extractLsb' 12 4

/-- `x`, bits 11 to 8: register number X. -/
def fieldX (op : Opcode) : Reg := (op.extractLsb' 8 4).toFin

/-- `y`, bits 7 to 4: register number Y. -/
def fieldY (op : Opcode) : Reg := (op.extractLsb' 4 4).toFin

/-- `n`, bits 3 to 0: sprite height or minor opcode. -/
def fieldN (op : Opcode) : BitVec 4 := op.extractLsb' 0 4

/-- `nn`, bits 7 to 0: byte immediate or minor opcode. -/
def fieldNN (op : Opcode) : Byte := op.extractLsb' 0 8

/-- `nnn`, bits 11 to 0: address immediate. -/
def fieldNNN (op : Opcode) : Addr := op.extractLsb' 0 12

/-! ## Decoding (R56, R57) -/

/-- Major opcode 0: only `00E0` and `00EE` are recognised (R56 rows 1 and 2, R58). -/
def decodeMajor0 (nnn : Addr) : Option Instr :=
  if nnn = 0x0E0 then some .cls
  else if nnn = 0x0EE then some .ret
  else none

/-- Major opcodes 5 and 9: the low nibble must be 0 (R56 rows 7 and 19, R58). -/
def decodeLow0 (n : BitVec 4) (i : Instr) : Option Instr :=
  if n = 0 then some i else none

/-- Major opcode 8: the register-to-register operations, by low nibble (R56 rows 10 to 18, R58). -/
def decodeMajor8 (x y : Reg) (n : BitVec 4) : Option Instr :=
  match n with
  | 0x0#4 => some (.ldReg x y)
  | 0x1#4 => some (.or x y)
  | 0x2#4 => some (.and x y)
  | 0x3#4 => some (.xor x y)
  | 0x4#4 => some (.addReg x y)
  | 0x5#4 => some (.sub x y)
  | 0x6#4 => some (.shr x y)
  | 0x7#4 => some (.subn x y)
  | 0xE#4 => some (.shl x y)
  | _ => none

/-- Major opcode E: the key skips, by low byte (R56 rows 24 and 25, R58). -/
def decodeMajorE (x : Reg) (nn : Byte) : Option Instr :=
  if nn = 0x9E then some (.skp x)
  else if nn = 0xA1 then some (.sknp x)
  else none

/-- Major opcode F: timers, index and memory, by low byte (R56 rows 26 to 33, R58). -/
def decodeMajorF (x : Reg) (nn : Byte) : Option Instr :=
  if nn = 0x07 then some (.ldVxDt x)
  else if nn = 0x15 then some (.ldDtVx x)
  else if nn = 0x18 then some (.ldStVx x)
  else if nn = 0x1E then some (.addI x)
  else if nn = 0x29 then some (.ldF x)
  else if nn = 0x33 then some (.ldB x)
  else if nn = 0x55 then some (.ldMemVx x)
  else if nn = 0x65 then some (.ldVxMem x)
  else none

/-- The instruction a word stands for, `none` when it matches no row: R56's `Execute` returns `false` for it. -/
def decodeWord (op : Opcode) : Option Instr :=
  match fieldA op with
  | 0x0#4 => decodeMajor0 (fieldNNN op)
  | 0x1#4 => some (.jp (fieldNNN op))
  | 0x2#4 => some (.call (fieldNNN op))
  | 0x3#4 => some (.seImm (fieldX op) (fieldNN op))
  | 0x4#4 => some (.sneImm (fieldX op) (fieldNN op))
  | 0x5#4 => decodeLow0 (fieldN op) (.seReg (fieldX op) (fieldY op))
  | 0x6#4 => some (.ldImm (fieldX op) (fieldNN op))
  | 0x7#4 => some (.addImm (fieldX op) (fieldNN op))
  | 0x8#4 => decodeMajor8 (fieldX op) (fieldY op) (fieldN op)
  | 0x9#4 => decodeLow0 (fieldN op) (.sneReg (fieldX op) (fieldY op))
  | 0xA#4 => some (.ldI (fieldNNN op))
  | 0xB#4 => some (.jpV0 (fieldNNN op))
  | 0xC#4 => some (.rnd (fieldX op) (fieldNN op))
  | 0xD#4 => some (.drw (fieldX op) (fieldY op) (fieldN op).toNat)
  | 0xE#4 => decodeMajorE (fieldX op) (fieldNN op)
  | _ => decodeMajorF (fieldX op) (fieldNN op)     -- 0xF, the one value left

/-- The word made of two bytes, the more significant first (R34, R50). -/
def wordOfBytes (hi lo : Byte) : Opcode := hi ++ lo

/-- The two bytes of a word in the order memory holds them (R34, R50). -/
def bytesOfWord (op : Opcode) : List Byte := [op.extractLsb' 8 8, op.extractLsb' 0 8]

/-- What decoding a list of bytes gives: an instruction with the bytes after it, or a rejection by name. -/
inductive Decoded where
  /-- The first two bytes are the instruction `i`. -/
  | instr (i : Instr) (rest : List Byte)
  /-- The first two bytes match no row of the opcode map (R58). -/
  | unknownOpcode (op : Opcode)
  /-- Fewer than two bytes: no instruction word. -/
  | truncated
  deriving DecidableEq, Repr

/-- Decode the instruction at the head of a list of bytes; total. -/
def decode : List Byte → Decoded
  | hi :: lo :: rest =>
    match decodeWord (wordOfBytes hi lo) with
    | some i => .instr i rest
    | none => .unknownOpcode (wordOfBytes hi lo)
  | _ => .truncated

/-! ## Encoding (R53, R56, section 7) -/

/-- The number of a register as its 4-bit field. -/
def regBits (x : Reg) : BitVec 4 := BitVec.ofFin x

/-- Format A: `a nnn`. -/
def formatA (a : BitVec 4) (nnn : Addr) : Opcode := a ++ nnn

/-- Format XB: `a x nn`. -/
def formatXB (a : BitVec 4) (x : Reg) (nn : Byte) : Opcode := a ++ regBits x ++ nn

/-- Formats XY and XYN: `a x y n`, `n` fixed in XY. -/
def formatXY (a : BitVec 4) (x y : Reg) (n : BitVec 4) : Opcode := a ++ regBits x ++ regBits y ++ n

/-- Format X: `a x` and a fixed low byte. -/
def formatX (a : BitVec 4) (x : Reg) (low : Byte) : Opcode := a ++ regBits x ++ low

/-- The word of an instruction (R56). For an ill-formed draw-sprite only the low 4 bits of the height are kept. -/
def encode : Instr → Opcode
  | .cls => 0x00E0
  | .ret => 0x00EE
  | .jp nnn => formatA 0x1 nnn
  | .call nnn => formatA 0x2 nnn
  | .seImm x nn => formatXB 0x3 x nn
  | .sneImm x nn => formatXB 0x4 x nn
  | .seReg x y => formatXY 0x5 x y 0x0
  | .ldImm x nn => formatXB 0x6 x nn
  | .addImm x nn => formatXB 0x7 x nn
  | .ldReg x y => formatXY 0x8 x y 0x0
  | .or x y => formatXY 0x8 x y 0x1
  | .and x y => formatXY 0x8 x y 0x2
  | .xor x y => formatXY 0x8 x y 0x3
  | .addReg x y => formatXY 0x8 x y 0x4
  | .sub x y => formatXY 0x8 x y 0x5
  | .shr x y => formatXY 0x8 x y 0x6
  | .subn x y => formatXY 0x8 x y 0x7
  | .shl x y => formatXY 0x8 x y 0xE
  | .sneReg x y => formatXY 0x9 x y 0x0
  | .ldI nnn => formatA 0xA nnn
  | .jpV0 nnn => formatA 0xB nnn
  | .rnd x nn => formatXB 0xC x nn
  | .drw x y n => formatXY 0xD x y (BitVec.ofNat 4 n)
  | .skp x => formatX 0xE x 0x9E
  | .sknp x => formatX 0xE x 0xA1
  | .ldVxDt x => formatX 0xF x 0x07
  | .ldDtVx x => formatX 0xF x 0x15
  | .ldStVx x => formatX 0xF x 0x18
  | .addI x => formatX 0xF x 0x1E
  | .ldF x => formatX 0xF x 0x29
  | .ldB x => formatX 0xF x 0x33
  | .ldMemVx x => formatX 0xF x 0x55
  | .ldVxMem x => formatX 0xF x 0x65

/-- The bytes of an instruction in the order memory holds them. -/
def encodeBytes (i : Instr) : List Byte := bytesOfWord (encode i)

/-! ## The opcode map as R56 prints it -/

/-- The `match` and `mask` columns of one row of the opcode map (R56). -/
structure OpcodeRow where
  pattern : Opcode
  mask    : Opcode
  deriving DecidableEq, Repr

/-- "A word matches a row when `op & mask = match`" (R56). -/
def OpcodeRow.accepts (r : OpcodeRow) (op : Opcode) : Bool := op &&& r.mask == r.pattern

/-- R56's 33 rows of `match` and `mask`, in its order: what the decoder is held against. -/
def opcodeRows : List OpcodeRow :=
  [⟨0x00E0, 0xFFFF⟩, ⟨0x00EE, 0xFFFF⟩, ⟨0x1000, 0xF000⟩, ⟨0x2000, 0xF000⟩, ⟨0x3000, 0xF000⟩, ⟨0x4000, 0xF000⟩,
   ⟨0x5000, 0xF00F⟩, ⟨0x6000, 0xF000⟩, ⟨0x7000, 0xF000⟩] ++
  [⟨0x8000, 0xF00F⟩, ⟨0x8001, 0xF00F⟩, ⟨0x8002, 0xF00F⟩, ⟨0x8003, 0xF00F⟩, ⟨0x8004, 0xF00F⟩, ⟨0x8005, 0xF00F⟩,
   ⟨0x8006, 0xF00F⟩, ⟨0x8007, 0xF00F⟩, ⟨0x800E, 0xF00F⟩] ++
  [⟨0x9000, 0xF00F⟩, ⟨0xA000, 0xF000⟩, ⟨0xB000, 0xF000⟩, ⟨0xC000, 0xF000⟩, ⟨0xD000, 0xF000⟩, ⟨0xE09E, 0xF0FF⟩,
   ⟨0xE0A1, 0xF0FF⟩] ++
  [⟨0xF007, 0xF0FF⟩, ⟨0xF015, 0xF0FF⟩, ⟨0xF018, 0xF0FF⟩, ⟨0xF01E, 0xF0FF⟩, ⟨0xF029, 0xF0FF⟩, ⟨0xF033, 0xF0FF⟩,
   ⟨0xF055, 0xF0FF⟩, ⟨0xF065, 0xF0FF⟩]

/-! ## The table's numbering -/

/-- The word whose bits spec/opcode_table.json numbers as `w`, the bits above `nbits` zero. -/
def tableWord (nbits w : Nat) : Opcode := BitVec.ofNat 16 (w % 2 ^ nbits)

/-- What the decoder reads from the word `w` laid out as memory holds it (R34). -/
def decodeTableWord (nbits w : Nat) : Option Instr :=
  match decode (bytesOfWord (tableWord nbits w)) with
  | .instr i _ => some i
  | .unknownOpcode _ => none
  | .truncated => none

end Sys2Proof
end

