-- ==== Sys2Proof/Config.lean ====
section
/-! DEFINITION. What is fixed for this hardware (spec/00_scope.md R3), and the one free value. The OPEN parameters of R3
(`STACK_BASE`, `FONT`, `FB_OFF`, `FB_ON`) are arguments of the model: Sys2Proof/Machine/Params.lean. -/

namespace Sys2Proof.Config

/-- `MEM_SIZE`: the number of bytes of memory; every address is reduced modulo it (R3, R30, R31). -/
def memSize : Nat := 4096

/-- `ENTRY`: where the ROM image is placed and where execution starts (R3, R37). -/
def entry : Addr := 0x200

/-- `ROM_MAX`: the length of the longest image `Reset` is defined for (R3, R39). -/
def romMax : Nat := 3584

/-- `FONT_BASE`: the address of glyph 0 (R3, R38). -/
def fontBase : Nat := 0

/-- `GLYPH_STRIDE`: bytes from one glyph to the next (R3, R102). -/
def glyphStride : Nat := 5

/-- `W`: the display's width in dots (R3, R22). -/
def width : Nat := 64

/-- `H`: the display's height in dots (R3, R22). -/
def height : Nat := 32

/-- The number of dots of the display buffer, `W * H` = 2048 (R22). -/
def dots : Nat := width * height

/-- `TICK_HZ`: timer ticks in one second of real time (R3, R150). -/
def tickHz : Nat := 60

/-- `INSTR_PER_FRAME`: instruction steps in one frame (R3, R176, R177). -/
def instrPerFrame : Nat := 8

/-- FREE VALUE (R125, R153, spec/93_implementation_defined.md U8): the byte the random source delivers at its `n`th
unsupplied draw. It has no body, so nothing can be proved of it. Log entry 4. -/
opaque randomByte : Nat → Byte

/-- `MEM_SIZE` as the number it is. -/
@[simp] theorem memSize_eq : memSize = 4096 := rfl

/-- `W` as the number it is. -/
@[simp] theorem width_eq : width = 64 := rfl

/-- `H` as the number it is. -/
@[simp] theorem height_eq : height = 32 := rfl

end Sys2Proof.Config
end

