-- ==== Sys2Proof/Machine/Flags.lean ====
section
/-! DEFINITION. Every flag the instructions compute: the table of spec/10_state.md R12. A flag is the whole byte `0x00` or
`0x01`, computed from the operands' values before the instruction. -/

namespace Sys2Proof.Machine

/-- A flag byte: "always with the value 0 or 1 in all 8 bits" (R12). -/
def flagByte (b : Bool) : Byte := if b then 1 else 0

/-- add reg,reg: the exact sum is greater than 255 (R86, R91). -/
def carryFlag (vx vy : Byte) : Byte := flagByte (decide (255 < vx.toNat + vy.toNat))

/-- sub and subn: no borrow, the minuend is not below the subtrahend (R87, R89, R91; spec/90_conflicts.md C1). -/
def noBorrowFlag (minuend subtrahend : Byte) : Byte := flagByte (decide (subtrahend.toNat ≤ minuend.toNat))

/-- shift-right: bit 0 before the shift (R88). -/
def shrFlag (vx : Byte) : Byte := flagByte (vx.getLsbD 0)

/-- shift-left: bit 7 before the shift (R90). -/
def shlFlag (vx : Byte) : Byte := flagByte (vx.getLsbD 7)

/-- add index,reg: the exact sum is greater than `0xFFF` (R101). -/
def indexOverflowFlag (i : Addr) (vx : Byte) : Byte := flagByte (decide (0xFFF < i.toNat + vx.toNat))

/-- draw-sprite: some lit dot became unlit (R111). -/
def collisionFlag (collision : Bool) : Byte := flagByte collision

end Sys2Proof.Machine
end

