-- ==== Sys2Proof/Machine/Params.lean ====
section
/-! DEFINITION. The OPEN parameters of spec/00_scope.md R3, "an argument of the model with the listed default": `State.initial`
takes a value for each, State carries it, no transition changes it, and `State.reset` is the machine with the defaults. The
defaults stand in Sys2Proof/Machine so that a repair may change them. -/

namespace Sys2Proof.Machine

/-- `FONT`: 80 bytes, five rows for each of 16 glyphs (R3, R38). -/
abbrev Font := Vector Byte 80

/-- The OPEN parameters of R3 beside `FONT`, which memory carries (`Memory.font`). -/
structure Params where
  /-- `STACK_BASE`: the address of stack entry 0 (R3, R17, R37). -/
  stackBase : Addr
  /-- `FB_OFF`: the byte given to the host for an unlit dot (R3, R113). -/
  fbOff     : Byte
  /-- `FB_ON`: the byte given to the host for a lit dot (R3, R113). -/
  fbOn      : Byte
  deriving DecidableEq, Repr

/-- R3's constraints that hold of every instance: the stack does not wrap around the top of memory, and the two framebuffer
bytes differ. That the stack should not overlap the font or the image is advice, which no rule needs (R3). -/
abbrev Params.legal (p : Params) : Prop := p.stackBase.toNat + 31 ≤ 0xFFF ∧ p.fbOff ≠ p.fbOn

/-- The built-in glyphs of the digits 0 to F, five rows each, the top row first (R38, D15; log entry 2). -/
def glyphs : List (List Byte) :=
  [[0xF0, 0x90, 0x90, 0x90, 0xF0], [0x20, 0x60, 0x20, 0x20, 0x70], [0xF0, 0x10, 0xF0, 0x80, 0xF0],
   [0xF0, 0x10, 0xF0, 0x10, 0xF0]] ++
  [[0x90, 0x90, 0xF0, 0x10, 0x10], [0xF0, 0x80, 0xF0, 0x10, 0xF0], [0xF0, 0x80, 0xF0, 0x90, 0xF0],
   [0xF0, 0x10, 0x20, 0x40, 0x40]] ++
  [[0xF0, 0x90, 0xF0, 0x90, 0xF0], [0xF0, 0x90, 0xF0, 0x10, 0xF0], [0xF0, 0x90, 0xF0, 0x90, 0x90],
   [0xE0, 0x90, 0xE0, 0x90, 0xE0]] ++
  [[0xF0, 0x80, 0x80, 0x80, 0xF0], [0xE0, 0x90, 0x90, 0x90, 0xE0], [0xF0, 0x80, 0xF0, 0x80, 0xF0],
   [0xF0, 0x80, 0xF0, 0x80, 0x80]]

/-- The default of `FONT`: the glyphs in a row (R38, D15; log entry 2). -/
def defaultFont : Font := Vector.ofFn fun k => glyphs.flatten.getD k.val 0

/-- The defaults of `STACK_BASE`, `FB_OFF` and `FB_ON` (R3, D4, D27; log entries 1 and 3). -/
def defaultParams : Params := ⟨0xEA0, 0x00, 0x01⟩

end Sys2Proof.Machine
end

