-- ==== Sys2Proof/Machine/State.lean ====
section
/-! DEFINITION. The machine's state, the reasons a step can stop, and the state after reset: spec/10_state.md R10 to R25,
spec/60_exceptions.md R140 to R142, R152, R153, spec/70_reset_and_hazards.md R170 and R173. -/

namespace Sys2Proof.Machine

/-- Memory (R21, R30). `cells` lists the bytes that differ from what an unlisted address reads as, as (address, byte) pairs by
rising address; what it reads as rests on `font`, the OPEN parameter `FONT` (R3, R38), which no transition changes. The
canonical form is `Memory.wf` of Sys2Proof/Machine/Ops.lean (log entry 8). -/
structure Memory where
  font  : Font
  cells : List Host.Cell
  deriving DecidableEq, Repr

/-- The display buffer: bit `k` is dot `disp[k]`, 1 is lit (R22; log entry 16). -/
abbrev Display := BitVec Config.dots

/-- The 16 key inputs: entry `k` is true when the key with digit `k` is down (R152). -/
abbrev Keys := Vector Bool 16

/-- What the unknown-opcode exception records: the word fetched and the address it was fetched from (R20, R140). -/
structure UnknownOpcode where
  op   : Opcode
  addr : Addr
  deriving DecidableEq, Repr

/-- A transition of one of the agents of R4, as it stands in the schedule (R173; log entry 5). -/
inductive Event where
  /-- The core executes one instruction (R55). -/
  | step
  /-- The timer ticker counts both timers down (R150). -/
  | tick
  /-- The host runs one frame: R175 for `elapsed`, then the frame's instruction steps, then the presentation (R176). Entry `k`
  of `inputs` is the change of the key inputs, if there is one, that the host makes right before the frame's step `k`: the
  keys may change "at any time between steps" and are sampled in the steps, "not once per frame" (R152, R176; log entry 12). -/
  | frame (elapsed : Rat) (inputs : Vector (Option Keys) Config.instrPerFrame)
  /-- The host changes the key inputs (R152). -/
  | keys (ks : Keys)
  /-- The host loads a program and resets the machine (R170). -/
  | reset (rom : List Byte)
  deriving DecidableEq, Repr

/-- What a frame hands to the host at its end: the framebuffer with its width and height (R113, R155), and the fault (R173,
R176). -/
structure Presentation where
  fb     : Vector Byte Config.dots
  width  : Nat
  height : Nat
  fault     : Option UnknownOpcode
  deriving DecidableEq, Repr

/-- Everything the spec gives the machine (R10 to R23), the inputs its instructions read (R152, R153), the OPEN parameters (R3),
the frame in progress (R176), what the last frame presented (R113), and the model's own `draws` and `schedule`. -/
structure State where
  /-- `V[0]` to `V[15]`; `V[15]` is the flag register `VF` (R10, R12). -/
  v         : Vector Byte 16
  /-- `I`, the index register (R15). -/
  i         : Addr
  /-- `pc` (R14). -/
  pc        : Addr
  /-- `sp`, the index of the next free stack entry (R16). -/
  sp        : BitVec 4
  /-- `DT`, the delay timer (R18). -/
  dt        : Byte
  /-- `ST`, the sound timer (R19). -/
  st        : Byte
  /-- `fault`, the fault latch (R20). -/
  fault     : Option UnknownOpcode
  /-- `tick_acc`, in seconds: real time not yet turned into ticks (R23, R175). -/
  tickAcc   : Rat
  /-- `Mem`, which holds the stack too (R17, R21). -/
  mem       : Memory
  /-- `disp`, the display buffer (R22). -/
  disp      : Display
  /-- `keys[0..15]`, the key inputs (R152). -/
  keys      : Keys
  /-- The bytes the random source delivers next, the first one first (R153; log entry 4). -/
  randomIn  : List Byte
  /-- THE MODEL'S OWN: how many random bytes were drawn that `randomIn` did not supply (log entry 4). -/
  draws     : Nat
  /-- THE MODEL'S OWN: whose transition comes next, the first one first; when it is empty the core steps (log entry 5). -/
  schedule  : List Event
  /-- The frame in progress: one entry for each step it still owes, the key change to be made right before that step; `some []`
  when only the presentation is left, `none` between frames (R176; log entry 12). -/
  frameLeft : Option (List (Option Keys))
  /-- What the last frame since the reset handed to the host, if one has ended (R113, R155, R173; log entry 12). -/
  presented : Option Presentation
  /-- The OPEN parameters `STACK_BASE`, `FB_OFF`, `FB_ON`; no transition changes them (R3). -/
  params    : Params
  deriving DecidableEq, Repr

/-- Why the machine stops. -/
inductive Fault where
  /-- Raised by the core's `Step` while the fault latch is set: "the core has no `Step`", the state is stuck (R142). Safe:
  the hardware executes no instruction there either; `Tick`, `Frame` and `Reset` are still taken from the schedule. -/
  | coreStopped (cause : UnknownOpcode)
  deriving DecidableEq, Repr

/-- Why the model gives a transition no meaning. -/
inductive Refusal where
  /-- Raised by an arm of `exec` whose instruction has no meaning yet; no arm of this model raises it. Safe. -/
  | notModelled (mnemonic : String)
  /-- Raised by `Event.reset` with more than `ROM_MAX` bytes: "a model refuses it" (R39, R171). Safe. -/
  | romTooLong (length : Nat)
  /-- Raised by `Event.frame` with a negative duration: `elapsed` is "a non-negative exact duration" (R175), so this is no
  event of the hardware. Safe. -/
  | negativeElapsed
  deriving DecidableEq, Repr

/-- The state after `Reset` with the empty image (R24, R170) for any value of the OPEN parameters (R3): `V`, `pc`, `disp` and
the font as the source says; `I`, `sp`, `DT`, `ST`, `fault` and `tick_acc` by the spec's decision D22. The key inputs,
`randomIn`, `draws` and `schedule` are inputs that R170 does not set: their values here are log entries 4, 5 and 6. No frame is
in progress and none has ended (log entry 12). -/
def State.initial (font : Font) (params : Params) : State where
  v         := Vector.replicate 16 0
  i         := 0
  pc        := Config.entry
  sp        := 0
  dt        := 0
  st        := 0
  fault     := none
  tickAcc   := 0
  mem       := ⟨font, []⟩
  disp      := 0#Config.dots
  keys      := Vector.replicate 16 false
  randomIn  := []
  draws     := 0
  schedule  := []
  frameLeft := none
  presented := none
  params    := params

/-- The state after `Reset` with the empty image and the OPEN parameters at their defaults (R3; log entries 1, 2 and 3). -/
def State.reset : State := State.initial defaultFont defaultParams

end Sys2Proof.Machine
end

