-- ==== Sys2Proof/Machine/Ops.lean ====
section
/-! DEFINITION. The named operations over registers, memory and the fault latch: spec/00_scope.md section 7's primitives,
spec/20_memory.md R30 to R37, spec/10_state.md R10 to R20, spec/60_exceptions.md R141. -/

namespace Sys2Proof.Machine

/-! ## Registers -/

/-- `V[x]` (R10). -/
def State.reg (s : State) (x : Reg) : Byte := s.v.get x

/-- `V[x] <- b` (R10). -/
def State.setReg (s : State) (x : Reg) (b : Byte) : State := { s with v := s.v.set x.val b x.isLt }

/-- All sixteen registers at once, for load-registers (R105). -/
def State.setRegs (s : State) (v : Vector Byte 16) : State := { s with v := v }

/-- `I <- a`; an `Addr` is the masked value (R15). -/
def State.setI (s : State) (a : Addr) : State := { s with i := a }

/-- `pc <- a`; an `Addr` is the masked value (R14). -/
def State.setPc (s : State) (a : Addr) : State := { s with pc := a }

/-- `sp <- k`; four bits are the value modulo `STACK_DEPTH` (R16). -/
def State.setSp (s : State) (k : BitVec 4) : State := { s with sp := k }

/-- `DT <- b` (R18). -/
def State.setDt (s : State) (b : Byte) : State := { s with dt := b }

/-- `ST <- b` (R19). -/
def State.setSt (s : State) (b : Byte) : State := { s with st := b }

/-- Memory replaced by `m`, the result of a memory operation (R21). -/
def State.setMem (s : State) (m : Memory) : State := { s with mem := m }

/-- The display buffer replaced by `d` (R22). -/
def State.setDisp (s : State) (d : Display) : State := { s with disp := d }

/-- The key inputs become `ks` (R152). -/
def State.setKeys (s : State) (ks : Keys) : State := { s with keys := ks }

/-- The fault latch becomes `f` (R20). -/
def State.setFault (s : State) (f : Option UnknownOpcode) : State := { s with fault := f }

/-- The remainder of real time becomes `t` seconds (R23). -/
def State.setTickAcc (s : State) (t : Rat) : State := { s with tickAcc := t }

/-- What is left of the frame in progress becomes `l` (R176). -/
def State.setFrameLeft (s : State) (l : Option (List (Option Keys))) : State := { s with frameLeft := l }

/-- The last presentation becomes `p` (R113, R173). -/
def State.setPresented (s : State) (p : Option Presentation) : State := { s with presented := p }

/-- What is left of the schedule becomes `es` (log entry 5). -/
def State.setSchedule (s : State) (es : List Event) : State := { s with schedule := es }

/-! ## Memory -/

/-- What an address reads as while memory does not list it: the reset contents, the font at `FONT_BASE` and zero elsewhere
(R24, R37, R170; log entry 8). `FONT_BASE` is 0 (R3), so no address lies below it. -/
def unlistedByte (f : Font) (a : Nat) : Byte := f.toList.getD (a - Config.fontBase) 0

/-- The byte that a list of cells gives the in-range address `a`. -/
def cellsByteAt (f : Font) : List Host.Cell → Nat → Byte
  | [], a => unlistedByte f a
  | (k, b) :: rest, a => if k = a then b else cellsByteAt f rest a

/-- The cells without the address `a`. -/
def cellsUnlist (cs : List Host.Cell) (a : Nat) : List Host.Cell := cs.filter (fun c => c.1 != a)

/-- The cells with `(a, b)` put before the first entry of a higher address. -/
def cellsEnlist : List Host.Cell → Nat → Byte → List Host.Cell
  | [], a, b => [(a, b)]
  | c :: rest, a, b => if a < c.1 then (a, b) :: c :: rest else c :: cellsEnlist rest a b

/-- The byte at the in-range address `a`. -/
def Memory.byteAt (m : Memory) (a : Nat) : Byte := cellsByteAt m.font m.cells a

/-- The byte at the in-range address `a` becomes `b`; an entry equal to what the unlisted address reads as is left out. -/
def Memory.setByte (m : Memory) (a : Nat) (b : Byte) : Memory :=
  { m with cells := if b = unlistedByte m.font a then cellsUnlist m.cells a else cellsEnlist (cellsUnlist m.cells a) a b }

/-- Memory with nothing listed: the reset contents without an image (R170). -/
def Memory.cleared (m : Memory) : Memory := { m with cells := [] }

/-- The canonical form: addresses strictly rising and below `MEM_SIZE`, no entry equal to what its address reads as when
unlisted. Equal memories are then equal lists. -/
abbrev Memory.wf (m : Memory) : Prop :=
  m.cells.Pairwise (fun c d => c.1 < d.1) ∧ ∀ c ∈ m.cells, c.1 < Config.memSize ∧ c.2 ≠ unlistedByte m.font c.1

/-- `MemRead(addr, 1)`: every address is reduced modulo `MEM_SIZE`, no access fails (R31, R32). -/
def Memory.read (m : Memory) (addr : Nat) : Byte := m.byteAt (addr % Config.memSize)

/-- `MemWrite(addr, 1, b)` (R31, R32). -/
def Memory.write (m : Memory) (addr : Nat) (b : Byte) : Memory := m.setByte (addr % Config.memSize) b

/-- `MemRead(addr, 2)`: the byte at the lower address is the more significant, each address masked separately (R33). -/
def Memory.read2 (m : Memory) (addr : Nat) : BitVec 16 := m.read addr ++ m.read (addr + 1)

/-- `MemWrite(addr, 2, w)`: the high byte first (R33). -/
def Memory.write2 (m : Memory) (addr : Nat) (w : BitVec 16) : Memory :=
  (m.write addr (w.extractLsb' 8 8)).write (addr + 1) (w.extractLsb' 0 8)

/-- The `n` bytes at `addr`, `addr + 1`, … in ascending order (R36). -/
def Memory.readBytes (m : Memory) (addr : Nat) : Nat → List Byte
  | 0 => []
  | n + 1 => m.read addr :: Memory.readBytes m (addr + 1) n

/-- The bytes `bs` written at `addr`, `addr + 1`, … in ascending order (R36). -/
def Memory.writeBytes (m : Memory) (addr : Nat) : List Byte → Memory
  | [] => m
  | b :: bs => Memory.writeBytes (m.write addr b) (addr + 1) bs

/-! ## The stack (R16, R17, R37) -/

/-- The address of stack entry `k`'s high byte, `STACK_BASE + 2k`; its low byte lies at the next address (R17, R37). -/
def State.stackSlot (s : State) (k : BitVec 4) : Nat := s.params.stackBase.toNat + 2 * k.toNat

/-- Push a 12-bit address, zero-extended to 16 bits, and move `sp` up, modulo 16 (R16, R72). -/
def State.push (s : State) (a : Addr) : State :=
  (s.setMem (s.mem.write2 (s.stackSlot s.sp) (a.setWidth 16))).setSp (s.sp + 1)

/-- The low 12 bits of the entry below `sp`, modulo 16: what return pops (R16, R70). -/
def State.poppedAddr (s : State) : Addr := (s.mem.read2 (s.stackSlot (s.sp - 1))).setWidth 12

/-! ## Control (R14, R55, R79) -/

/-- `pc <- pc + 2`, wrapping at 12 bits: the fetch's advance and the skip (R14, R55, R79). -/
def State.skip (s : State) : State := s.setPc (s.pc + 2)

/-- Skip when the condition holds (R79). -/
def State.skipIf (s : State) (c : Bool) : State := if c then s.skip else s

/-! ## The random source (R125, R153) -/

/-- `draw_byte()`: the byte the random source delivers, the first of `randomIn` or, where that supplies none, a free value
(R125, R153, U8; log entry 4). -/
def State.drawnByte (s : State) : Byte :=
  match s.randomIn with
  | b :: _ => b
  | [] => Config.randomByte s.draws

/-- The random source after a draw: the byte delivered is used up, so every draw is fresh (R125; log entry 4). -/
def State.drawDone (s : State) : State :=
  match s.randomIn with
  | _ :: rest => { s with randomIn := rest }
  | [] => { s with draws := s.draws + 1 }

/-! ## The one exception (R140, R141, R145, R146) -/

/-- `raise UnknownOpcode(op, addr)`: the latch records the word and its address, nothing else changes; `pc` keeps the value
the fetch gave it (R141). There is no handler and no return from it: only `Reset` clears the latch (R145, R146). -/
def State.raiseUnknownOpcode (s : State) (op : Opcode) (addr : Addr) : State := s.setFault (some ⟨op, addr⟩)

end Sys2Proof.Machine
end

