-- ==== Sys2Proof/Machine/Operands.lean ====
section
/-! DEFINITION. The operand forms: how the instructions turn registers, immediates and `I` into values and addresses
(spec/30_encoding.md R52, spec/42_index_memory.md R101 to R106, spec/44_timers_keys_random.md R120, spec/20_memory.md section 11). -/

namespace Sys2Proof.Machine

/-- `I` as the base of a memory access `I + k`; the access masks the sum (R31, R106). -/
def State.indexBase (s : State) : Nat := s.i.toNat

/-- `I <- I + k`, masked to 12 bits: the post-increment of store-registers and load-registers (R104, R105). -/
def State.advanceIndex (s : State) (k : Nat) : State := s.setI (BitVec.ofNat 12 (s.indexBase + k))

/-- How many registers `V[0]` to `V[x]` are: `x + 1` (R104, R105). -/
def regCount (x : Reg) : Nat := x.val + 1

/-- `V[0]` to `V[x]` in ascending order (R104). -/
def State.regsUpTo (s : State) (x : Reg) : List Byte := s.v.toList.take (regCount x)

/-- The registers with `V[k] <- MemRead(base + k, 1)` done for `k` from 0 to `x` (R105). -/
def State.regsLoaded (s : State) (x : Reg) : Vector Byte 16 :=
  Vector.ofFn fun k => if k ≤ x then s.mem.read (s.indexBase + k.val) else s.reg k

/-- The address of the glyph of `b`: `FONT_BASE + 5 * b`, all 8 bits of `b` (R102). -/
def glyphAddr (b : Byte) : Addr := BitVec.ofNat 12 (Config.fontBase + b.toNat * Config.glyphStride)

/-- The decimal digits of `b`: hundreds, tens, units (R103). -/
def bcdDigits (b : Byte) : List Byte :=
  [BitVec.ofNat 8 (b.toNat / 100), BitVec.ofNat 8 (b.toNat / 10 % 10), BitVec.ofNat 8 (b.toNat % 10)]

/-- `key(k)` for the key that the low nibble of `b` names (R120, R152). -/
def State.keyDown (s : State) (b : Byte) : Bool := s.keys.get (b.extractLsb' 0 4).toFin

/-- `V[x] <- r`, then the flag into `V[15]`, last (R13, R92). -/
def State.setRegFlag (s : State) (x : Reg) (r f : Byte) : State := (s.setReg x r).setReg VF f

/-- The addresses an instruction presents to memory as data, in the order it does (spec/20_memory.md section 11, R36). -/
def State.dataAddrs (s : State) : Instr → List Nat
  | .call _ => [s.stackSlot s.sp, s.stackSlot s.sp + 1]
  | .ret => [s.stackSlot (s.sp - 1), s.stackSlot (s.sp - 1) + 1]
  | .ldB _ => (List.range 3).map (s.indexBase + ·)
  | .ldMemVx x | .ldVxMem x => (List.range (regCount x)).map (s.indexBase + ·)
  | .drw _ _ n => (List.range n).map (s.indexBase + ·)
  | .cls | .jp _ | .jpV0 _ | .ldI _ => []
  | .seImm _ _ | .sneImm _ _ | .ldImm _ _ | .addImm _ _ | .rnd _ _ => []
  | .seReg _ _ | .sneReg _ _ | .ldReg _ _ | .or _ _ | .and _ _ | .xor _ _ => []
  | .addReg _ _ | .sub _ _ | .shr _ _ | .subn _ _ | .shl _ _ => []
  | .skp _ | .sknp _ | .ldVxDt _ | .ldDtVx _ | .ldStVx _ | .addI _ | .ldF _ => []

end Sys2Proof.Machine
end

