-- ==== Sys2Proof/Machine/ControlTransfer.lean ====
section
/-! DEFINITION. Control transfer: spec/40_control_transfer.md R70 to R79. Every meaning sees `pc` at the instruction's address
plus 2, where the fetch left it (spec/30_encoding.md R55). -/

namespace Sys2Proof.Machine

/-- return (R70). -/
def execRet (s : State) : Host.Outcome State Fault Refusal :=
  .next ((s.setSp (s.sp - 1)).setPc s.poppedAddr)

/-- jump u12 (R71). -/
def execJp (nnn : Addr) (s : State) : Host.Outcome State Fault Refusal :=
  .next (s.setPc nnn)

/-- call u12: `pc` pushed is the address of the instruction after the call (R72). -/
def execCall (nnn : Addr) (s : State) : Host.Outcome State Fault Refusal :=
  .next ((s.push s.pc).setPc nnn)

/-- skip-if-equal reg,imm (R73). -/
def execSeImm (x : Reg) (nn : Byte) (s : State) : Host.Outcome State Fault Refusal :=
  .next (s.skipIf (s.reg x == nn))

/-- skip-if-not-equal reg,imm (R74). -/
def execSneImm (x : Reg) (nn : Byte) (s : State) : Host.Outcome State Fault Refusal :=
  .next (s.skipIf (s.reg x != nn))

/-- skip-if-equal reg,reg (R75). -/
def execSeReg (x y : Reg) (s : State) : Host.Outcome State Fault Refusal :=
  .next (s.skipIf (s.reg x == s.reg y))

/-- skip-if-not-equal reg,reg (R76). -/
def execSneReg (x y : Reg) (s : State) : Host.Outcome State Fault Refusal :=
  .next (s.skipIf (s.reg x != s.reg y))

/-- jump-indexed u12: the sum wraps at 12 bits (R77). -/
def execJpV0 (nnn : Addr) (s : State) : Host.Outcome State Fault Refusal :=
  .next (s.setPc (nnn + (s.reg 0).setWidth 12))

end Sys2Proof.Machine
end

