-- ==== Sys2Proof/Machine/Display.lean ====
section
/-! DEFINITION. The display: clear-screen, draw-sprite and the framebuffer output, spec/43_display.md R110 to R114, over the dots
of spec/10_state.md R22. -/

namespace Sys2Proof.Machine

/-- The index of the dot at column `px`, row `py`, each taken modulo the screen: row-major (R22, R111; log entry 10). -/
def dotIndex (px py : Nat) : Nat := py % Config.height * Config.width + px % Config.width

/-- One sprite bit of 1: invert the dot, and note whether it was lit (R111). -/
def drawDot (px py : Nat) (acc : Display × Bool) : Display × Bool :=
  (acc.1 ^^^ (1#Config.dots <<< dotIndex px py), acc.2 || acc.1.getLsbD (dotIndex px py))

/-- Bit `7 - c` of a sprite row at column `x + c`, for `c` from 0 to 7: bit 7 is the leftmost dot (R111; log entry 10). -/
def drawRow (x y : Nat) (row : Byte) (acc : Display × Bool) : Display × Bool :=
  (List.range 8).foldl (fun acc c => if row.getLsbD (7 - c) then drawDot (x + c) y acc else acc) acc

/-- The rows of a sprite one below the other, the top row first (R111). -/
def drawRows (x y : Nat) : List Byte → Display × Bool → Display × Bool
  | [], acc => acc
  | row :: rows, acc => drawRows x (y + 1) rows (drawRow x y row acc)

/-- clear-screen (R110). -/
def execCls (s : State) : Host.Outcome State Fault Refusal :=
  .next (s.setDisp 0#Config.dots)

/-- draw-sprite: `n` rows read at `I`, exclusive-or'ed in at column `V[x]`, row `V[y]`; the flag is the collision, written
last (R111). -/
def execDrw (x y : Reg) (n : Nat) (s : State) : Host.Outcome State Fault Refusal :=
  let drawn := drawRows (s.reg x).toNat (s.reg y).toNat (s.mem.readBytes s.indexBase n) (s.disp, false)
  .next ((s.setDisp drawn.1).setReg VF (collisionFlag drawn.2))

/-- `fb`: one byte for each dot in the order of `disp` (R113, R155). -/
def State.framebuffer (s : State) : Vector Byte Config.dots :=
  ⟨((List.range Config.dots).map fun k => if s.disp.getLsbD k then s.params.fbOn else s.params.fbOff).toArray, by simp⟩

/-- The end of a frame (R176 (d)): the framebuffer, its size and the fault are handed to the host. It reads `disp` and changes
no other state (R113), and the fault latch does not gate it (R142). -/
def State.present (s : State) : State :=
  s.setPresented (some ⟨s.framebuffer, Config.width, Config.height, s.fault⟩)

end Sys2Proof.Machine
end

