-- ==== Sys2Proof/Machine/IndexMemory.lean ====
section
/-! DEFINITION. Index register and memory: spec/42_index_memory.md R100 to R106. Every transfer addresses memory from the value
`I` had when the instruction began. -/

namespace Sys2Proof.Machine

/-- load index,u12 (R100). -/
def execLdI (nnn : Addr) (s : State) : Host.Outcome State Fault Refusal :=
  .next (s.setI nnn)

/-- add index,reg: `I` wraps at 12 bits, the flag is the overflow, written last (R101). -/
def execAddI (x : Reg) (s : State) : Host.Outcome State Fault Refusal :=
  .next ((s.setI (s.i + (s.reg x).setWidth 12)).setReg VF (indexOverflowFlag s.i (s.reg x)))

/-- load index,font-glyph reg (R102). -/
def execLdF (x : Reg) (s : State) : Host.Outcome State Fault Refusal :=
  .next (s.setI (glyphAddr (s.reg x)))

/-- store-bcd reg: three bytes, `I` unchanged (R103). -/
def execLdB (x : Reg) (s : State) : Host.Outcome State Fault Refusal :=
  .next (s.setMem (s.mem.writeBytes s.indexBase (bcdDigits (s.reg x))))

/-- store-registers reg: `V[0]` to `V[x]`, then `I` goes past them (R104). -/
def execLdMemVx (x : Reg) (s : State) : Host.Outcome State Fault Refusal :=
  .next ((s.setMem (s.mem.writeBytes s.indexBase (s.regsUpTo x))).advanceIndex (regCount x))

/-- load-registers reg: `V[0]` to `V[x]`, then `I` goes past them (R105). -/
def execLdVxMem (x : Reg) (s : State) : Host.Outcome State Fault Refusal :=
  .next ((s.setRegs (s.regsLoaded x)).advanceIndex (regCount x))

end Sys2Proof.Machine
end

