-- ==== Sys2Proof/Machine/CoreStep.lean ====
section
/-! DEFINITION. The core's one transition, `Step`: fetch, decode, execute (spec/30_encoding.md R54, R55, spec/60_exceptions.md
R140 to R145), and the optional address-wrap diagnostic (spec/20_memory.md R45). -/

namespace Sys2Proof.Machine

/-- The addresses the fetch presents: `pc` and `pc + 1` (spec/20_memory.md section 11). -/
def State.fetchAddrs (s : State) : List Nat := [s.pc.toNat, s.pc.toNat + 1]

/-- The word fetched at `pc`, big-endian (R33, R34, R55). -/
def State.fetchWord (s : State) : Opcode := s.mem.read2 s.pc.toNat

/-- `Step` (R55): nothing while the fault latch is set (R142); else fetch, advance `pc`, and execute the instruction or, where
the word matches no row, raise the unknown-opcode exception, whose latch makes the next state (R141). -/
def coreStep (s : State) : Host.Outcome State Fault Refusal :=
  match s.fault with
  | some cause => .fault (.coreStopped cause)
  | none =>
    match decodeWord s.fetchWord with
    | some i => exec i s.skip
    | none => .next (s.skip.raiseUnknownOpcode s.fetchWord s.pc)

/-- The optional diagnostic `AddrWrap`: the addresses of 4096 or more that the next `Step` presents to memory (R45, D28). An
output to the host: no transition reads it (log entry 15). -/
def State.addrWraps (s : State) : List Nat :=
  let data := match decodeWord s.fetchWord with
    | some i => s.skip.dataAddrs i
    | none => []
  (s.fetchAddrs ++ data).filter (Config.memSize ≤ ·)

end Sys2Proof.Machine
end

