-- ==== Sys2Proof/Machine/Agents.lean ====
section
/-! DEFINITION. The agents beside the core: the timer ticker, the frame sequencer and the host (spec/00_scope.md R4,
spec/60_exceptions.md R150 to R155, spec/70_reset_and_hazards.md R170 to R177), and what each event of the schedule does. -/

namespace Sys2Proof.Machine

/-! ## Timers (R150) -/

/-- A timer after one tick: one less, and zero stays zero (R150). -/
def countDown (b : Byte) : Byte := if 0 < b then b - 1 else b

/-- `Tick`: both timers count down, nothing else changes; the fault latch does not gate it (R142, R150). -/
def State.tick (s : State) : State := (s.setDt (countDown s.dt)).setSt (countDown s.st)

/-- `n` ticks, one after the other (R175). -/
def State.ticks (s : State) : Nat → State
  | 0 => s
  | n + 1 => State.ticks s.tick n

/-! ## Real time to ticks (R175) -/

/-- How many whole tick periods `t` seconds hold: `floor(t / (1/60))` (R175, D26). -/
def ticksIn (t : Rat) : Nat := (t * (Config.tickHz : Rat)).floor.toNat

/-- `n` tick periods in seconds. -/
def tickTime (n : Nat) : Rat := (n : Rat) / (Config.tickHz : Rat)

/-- R175: the real time since the last frame is added to the remainder, each whole tick period of it gives one `Tick`, and
what is left is carried. -/
def State.elapse (s : State) (elapsed : Rat) : State :=
  let total := s.tickAcc + elapsed
  (s.ticks (ticksIn total)).setTickAcc (total - tickTime (ticksIn total))

/-! ## Frames (R176) -/

/-- The host's change of the key inputs, if there is one (R152). -/
def State.applyInput (s : State) : Option Keys → State
  | none => s
  | some ks => s.setKeys ks

/-- A frame's step (R176): `Step`, but "if fault != None: stop repeating". -/
def frameStep (s : State) : Host.Outcome State Fault Refusal :=
  if s.fault.isSome then .next s else coreStep s

/-- One frame step for each entry, the host's key change right before it. -/
def frameSteps : List (Option Keys) → State → Host.Outcome State Fault Refusal
  | [], s => .next s
  | input :: inputs, s =>
    match frameStep (s.applyInput input) with
    | .next t => frameSteps inputs t
    | .fault f => .fault f
    | .refused r => .refused r

/-- `Frame(elapsed)` as R176 writes it, in one piece: the ticks, then `INSTR_PER_FRAME` steps with the key changes the host makes
between them, then the presentation. -/
def frame (elapsed : Rat) (inputs : Vector (Option Keys) Config.instrPerFrame) (s : State) :
    Host.Outcome State Fault Refusal :=
  match frameSteps inputs.toList (s.elapse elapsed) with
  | .next t => .next t.present
  | .fault f => .fault f
  | .refused r => .refused r

/-- The beginning of a frame: its ticks happen, and its steps and its presentation are owed (R176 (a); log entry 12). -/
def State.beginFrame (s : State) (elapsed : Rat) (inputs : Vector (Option Keys) Config.instrPerFrame) : State :=
  (s.elapse elapsed).setFrameLeft (some inputs.toList)

/-- The next transition of a frame of which `left` is left: the host's key change before the next step, that step, or, when all
steps are done, the presentation (R152, R176 (b) to (d)). -/
def framePart (left : List (Option Keys)) (s : State) : Host.Outcome State Fault Refusal :=
  match left with
  | some ks :: rest => .next ((s.setFrameLeft (some (none :: rest))).setKeys ks)
  | none :: rest => frameStep (s.setFrameLeft (some rest))
  | [] => .next (s.setFrameLeft none).present

/-! ## Reset (R170) -/

/-- `Reset(rom)` (R170): every piece of state at its reset value and the image at `ENTRY`. The inputs (keys, random source)
and what is left of the schedule are the host's and stay (log entries 4, 5 and 6), and so do the parameters, which are no
state of the hardware (R3). -/
def State.load (s : State) (rom : List Byte) : State :=
  { State.initial s.mem.font s.params with
    mem      := s.mem.cleared.writeBytes Config.entry.toNat rom
    keys     := s.keys
    randomIn := s.randomIn
    draws    := s.draws
    schedule := s.schedule }

/-! ## Outputs (R113, R154, R155, R173) -/

/-- What the host is given: the timers' values at any time (R154), and what the last frame presented (R113, R155, R173). -/
structure HostView where
  dt        : Byte
  st        : Byte
  presented : Option Presentation
  deriving DecidableEq, Repr

/-- The outputs of a state; reading them changes nothing. A dot changed and changed back within one frame is not seen (R113). -/
def State.hostView (s : State) : HostView := ⟨s.dt, s.st, s.presented⟩

/-! ## The schedule -/

/-- What an event of the schedule does; `s` has it taken off already. -/
def runEvent (e : Event) (s : State) : Host.Outcome State Fault Refusal :=
  match e with
  | .step => coreStep s
  | .tick => .next s.tick
  | .frame t inputs => if t < 0 then .refused .negativeElapsed else .next (s.beginFrame t inputs)
  | .keys ks => .next (s.setKeys ks)
  | .reset rom => if rom.length ≤ Config.romMax then .next (s.load rom) else .refused (.romTooLong rom.length)

/-- The next transition: the next part of the frame in progress, which runs to completion (R176); between frames the first event
of the schedule, or the core's `Step` when there is none (R4; log entry 5). -/
def nextTransition (s : State) : Host.Outcome State Fault Refusal :=
  match s.frameLeft with
  | some left => framePart left s
  | none =>
    match s.schedule with
    | [] => coreStep s
    | e :: rest => runEvent e (s.setSchedule rest)

/-- `s` with the word `op` where the next step fetches it and the core's `Step` next: the bytes at `pc`, the latch clear, no
frame in progress, and, where another event would come first, a `step` before it (log entry 11). -/
def State.placeWord (s : State) (op : Opcode) : State :=
  (((s.setMem (s.mem.write2 s.pc.toNat op)).setFault none).setFrameLeft none).setSchedule
    (match s.schedule with
      | [] => []
      | e :: rest => .step :: e :: rest)

end Sys2Proof.Machine
end

