-- ==== Sys2Proof/Machine/Step.lean ====
section
/-! DEFINITION. One step of the machine: the next transition of the agent whose turn it is (spec/00_scope.md R4). -/

namespace Sys2Proof.Machine

/-- One transition (R4): the next part of the frame in progress, else the first event of the schedule, else the core's `Step` of
R55. -/
def step : State → Host.Outcome State Fault Refusal := nextTransition

/-- `s` with the table word `w` placed so that the next step fetches and runs it (log entry 11). -/
def State.withFetchWord (s : State) (nbits w : Nat) : State := s.placeWord (tableWord nbits w)

end Sys2Proof.Machine
end

