-- ==== Sys2Proof/Safety.lean ====
section
/-! DEFINITION. The terms claims are made in: a good state and a safe run (spec/10_state.md R25, spec/60_exceptions.md R142,
spec/70_reset_and_hazards.md R181), what a transition leaves alone, a word by its fields, and where a sprite's bits land. -/

namespace Sys2Proof.Machine

/-! ## Good states and safe runs -/

/-- The invariant: memory in its canonical form, less than one tick period of real time carried (R23), a frame in progress owes
no more steps than a frame has (R176), and the OPEN parameters meet R3's constraints. The other bounds of R25 hold by the types
of State's fields. -/
structure State.Inv (s : State) : Prop where
  memWf       : s.mem.wf
  accNonneg   : 0 ≤ s.tickAcc
  accBelow    : s.tickAcc < 1 / 60
  frameBound  : ∀ left, s.frameLeft = some left → left.length ≤ 8
  paramsLegal : s.params.legal

/-- The fault latch is clear: the core has a `Step` (R142). -/
def State.running (s : State) : Prop := s.fault = none

/-- The core's `Step` is the next transition, and `u` is `s` with the turn taken, off the schedule or off the frame in
progress. -/
def State.coreTurn (s u : State) : Prop :=
  (s.frameLeft = none ∧ s.schedule = [] ∧ u = s) ∨
  (∃ rest, s.frameLeft = none ∧ s.schedule = .step :: rest ∧ u = s.setSchedule rest) ∨
  (∃ rest, s.frameLeft = some (none :: rest) ∧ u = s.setFrameLeft (some rest))

/-- The next transition is the core's `Step`, and it runs the instruction `i`. -/
def State.runsNext (s : State) (i : Instr) : Prop :=
  s.running ∧ (∃ u, s.coreTurn u) ∧ decodeWord s.fetchWord = some i

/-- The next transition is a reset. -/
def State.resetNext (s : State) : Prop := s.frameLeft = none ∧ ∃ rom rest, s.schedule = .reset rom :: rest

/-- The next transition is the presentation at the end of a frame. -/
def State.presentNext (s : State) : Prop := s.frameLeft = some []

/-- `n` transitions one after the other, ending at the first fault or refusal. -/
def steps : Nat → State → Host.Outcome State Fault Refusal
  | 0, s => .next s
  | n + 1, s =>
    match step s with
    | .next t => steps n t
    | .fault f => .fault f
    | .refused r => .refused r

/-- `n` transitions from `s` all happen, and the latch is clear in EVERY state on the way, `s` and the last one among them: a run
without a fault. A faulted state refutes it, a later reset or not (R142, R181). -/
def SafeFor (n : Nat) (s : State) : Prop := ∀ k ≤ n, ∃ t, steps k s = .next t ∧ t.running

/-! ## Frames -/

/-- The parts of the state an instruction can change; no instruction changes the others (spec/10_state.md section 11). -/
inductive Part where
  | regs | index | pc | sp | dt | st | mem | disp | random
  deriving DecidableEq, Repr

/-- From `s` to `t` nothing changed beside the parts listed: every register, `I`, `pc`, `sp`, both timers, EVERY byte of memory
as a read sees it, every dot and the random source, each unless it is listed; and always the fault latch, the remainder of
real time, the key inputs, the schedule, the frame in progress, what was presented, and the OPEN parameters. -/
def State.SameBut (s t : State) (ps : List Part) : Prop :=
  (.regs ∉ ps → ∀ r, t.reg r = s.reg r) ∧
  (.index ∉ ps → t.i = s.i) ∧
  (.pc ∉ ps → t.pc = s.pc) ∧
  (.sp ∉ ps → t.sp = s.sp) ∧
  (.dt ∉ ps → t.dt = s.dt) ∧
  (.st ∉ ps → t.st = s.st) ∧
  (.mem ∉ ps → ∀ a, t.mem.read a = s.mem.read a) ∧
  (.disp ∉ ps → t.disp = s.disp) ∧
  (.random ∉ ps → t.randomIn = s.randomIn ∧ t.draws = s.draws) ∧
  t.fault = s.fault ∧ t.tickAcc = s.tickAcc ∧ t.keys = s.keys ∧ t.schedule = s.schedule ∧
  t.frameLeft = s.frameLeft ∧ t.presented = s.presented ∧ t.params = s.params ∧ t.mem.font = s.mem.font

/-- Every register but those listed is the same. -/
def State.SameRegsBut (s t : State) (xs : List Reg) : Prop := ∀ r, r ∉ xs → t.reg r = s.reg r

/-- Every byte of memory reads the same but those at the listed addresses, each taken modulo 4096 (R31). -/
def State.SameMemBut (s t : State) (addrs : List Nat) : Prop :=
  ∀ a, (∀ b ∈ addrs, a % 4096 ≠ b % 4096) → t.mem.read a = s.mem.read a

/-! ## What an instruction reads -/

/-- The registers whose values an instruction's rule reads (spec/10_state.md section 11); `VF` is among them only where a field
names it (R12), `V[0]` implicitly for jump-indexed and store-registers (R11). -/
def readRegs : Instr → List Reg
  | .seReg x y | .sneReg x y | .or x y | .and x y | .xor x y | .addReg x y | .sub x y | .subn x y | .drw x y _ => [x, y]
  | .seImm x _ | .sneImm x _ | .addImm x _ | .shr x _ | .shl x _ | .skp x | .sknp x => [x]
  | .ldDtVx x | .ldStVx x | .addI x | .ldF x | .ldB x => [x]
  | .ldReg _ y => [y]
  | .jpV0 _ => [0]
  | .ldMemVx x => (List.finRange 16).filter (· ≤ x)
  | .cls | .ret | .jp _ | .call _ | .ldI _ | .ldImm _ _ | .rnd _ _ | .ldVxDt _ | .ldVxMem _ => []

/-! ## Words by their fields (spec/30_encoding.md section 7) -/

/-- `op = a * 4096 + x * 256 + y * 16 + n`. -/
def wordAXYN (a : Nat) (x y : Reg) (n : Nat) : Opcode := BitVec.ofNat 16 (a * 4096 + x.val * 256 + y.val * 16 + n)

/-- The same with `nn = y * 16 + n`. -/
def wordAXNN (a : Nat) (x : Reg) (nn : Nat) : Opcode := BitVec.ofNat 16 (a * 4096 + x.val * 256 + nn)

/-- The same with `nnn = x * 256 + y * 16 + n`. -/
def wordANNN (a : Nat) (nnn : Addr) : Opcode := BitVec.ofNat 16 (a * 4096 + nnn.toNat)

/-! ## Sprites (R111) -/

/-- A sprite bit of 1 lands on dot `k` when draw-sprite `x`, `y`, `n` runs in `s`: bit `7 - c` of row `r` goes to column
`(V[x] + c) mod 64`, row `(V[y] + r) mod 32` (R111). -/
def State.lands (s : State) (x y : Reg) (n k : Nat) : Prop :=
  ∃ r < n, ∃ c < 8, (s.mem.read (s.i.toNat + r)).getLsbD (7 - c) = true ∧
    k = ((s.reg y).toNat + r) % 32 * 64 + ((s.reg x).toNat + c) % 64

end Sys2Proof.Machine
end

