-- ==== Sys2Proof/Certificates/Slice0/Obligations.lean ====
section
/-! DEFINITION. The statements for the provers, from the numbered rules of spec/. In every statement about `exec` the state `s` is
the one after the fetch: `pc` holds the instruction's address plus 2 (spec/30_encoding.md R55). Where a statement rests on a
decision of spec/92_eei_decisions.md or on a log entry, its docstring names it. -/

open Sys2Proof Sys2Proof.Machine

/-! ## Encoding -/

/-- The words that the spec spells out are decoded as it says: R56 section 4 and section 7's examples. The numeric patterns
are log entry 9. -/
def Obligations.DecodesWordsOfTheSpec : Prop :=
  decodeWord 0x00E0 = some .cls ∧ decodeWord 0x6105 = some (.ldImm 1 5) ∧ decodeWord 0x3105 = some (.seImm 1 5) ∧
  decodeWord 0xD235 = some (.drw 2 3 5) ∧ decodeWord 0xFA55 = some (.ldMemVx 0xA) ∧ decodeWord 0x00EE = some .ret ∧
  decodeWord 0xBFFF = some (.jpV0 0xFFF) ∧ decodeWord 0x812E = some (.shl 1 2) ∧ decodeWord 0xE1A1 = some (.sknp 1) ∧
  decodeWord 0x0000 = none ∧ decodeWord 0xF10A = none ∧ decodeWord 0x8128 = none

/-- Decoding the bytes of any well-formed instruction gives it back, with every operand, and leaves the bytes after it: no bit
of an encoding is dropped (R51, R56; decisions D6 and D7). The numeric patterns are log entry 9. -/
def Obligations.DecodeInvertsEncode : Prop :=
  ∀ (i : Instr) (rest : List Byte), WellFormed i →
    decodeWord (encode i) = some i ∧ decode (encodeBytes i ++ rest) = .instr i rest

/-- Where a word decodes, the instruction is well-formed and the word is its encoding: each word has one meaning and each
instruction one word (R56; decisions D6 and D7). The numeric patterns are log entry 9. -/
def Obligations.EncodeInvertsDecode : Prop :=
  ∀ (op : Opcode) (i : Instr), decodeWord op = some i → WellFormed i ∧ encode i = op

/-- The decoder accepts a word exactly when it matches a row of R56's opcode map, and no word matches two rows (R56, R57;
decisions D6 and D8). The numeric patterns are log entry 9. -/
def Obligations.DecoderAcceptsExactlyTheRows : Prop :=
  (∀ op : Opcode, (decodeWord op).isSome = true ↔ ∃ r ∈ opcodeRows, r.accepts op = true) ∧
  ∀ (op : Opcode) (j k : Fin opcodeRows.length),
    (opcodeRows.get j).accepts op = true → (opcodeRows.get k).accepts op = true → j = k

/-- The words rejected are exactly those of R58's table, by major opcode and minor fields (R58; decisions D8 and D9). The
numeric patterns are log entry 9. -/
def Obligations.RejectedWordsAreThoseListed : Prop :=
  ∀ op : Opcode, decodeWord op = none ↔
    (op.toNat / 4096 = 0x0 ∧ op.toNat % 4096 ≠ 0x0E0 ∧ op.toNat % 4096 ≠ 0x0EE) ∨
    (op.toNat / 4096 = 0x5 ∧ op.toNat % 16 ≠ 0) ∨
    (op.toNat / 4096 = 0x8 ∧ 8 ≤ op.toNat % 16 ∧ op.toNat % 16 ≠ 0xE) ∨
    (op.toNat / 4096 = 0x9 ∧ op.toNat % 16 ≠ 0) ∨
    (op.toNat / 4096 = 0xE ∧ op.toNat % 256 ∉ [0x9E, 0xA1]) ∨
    (op.toNat / 4096 = 0xF ∧ op.toNat % 256 ∉ [0x07, 0x15, 0x18, 0x1E, 0x29, 0x33, 0x55, 0x65])

/-! ## The step, the fault and fetching -/

/-- When it is the core's turn, the latch is clear and the word at `pc` decodes to `i`, the step is `exec i` on the state whose
`pc` has gone up by 2 modulo 4096 and from which the turn is taken, off the schedule or off the frame in progress (R55; log
entries 5 and 12). -/
def Obligations.StepRunsTheDecodedInstruction : Prop :=
  ∀ (s u : State) (i : Instr), s.coreTurn u → s.running → decodeWord s.fetchWord = some i →
    step s = exec i (u.setPc (BitVec.ofNat 12 (s.pc.toNat + 2)))

/-- When the word at `pc` matches no row, the step sets the latch to the word and its address and advances `pc`; nothing else
changes, beside the turn taken off the schedule or the frame in progress; and no run that takes this step is a run without a
fault (R140, R141, R142, R145; decision D21, log entries 5, 7 and 12). -/
def Obligations.UnknownWordSetsTheLatch : Prop :=
  ∀ (s u : State), s.coreTurn u → s.running → decodeWord s.fetchWord = none →
    step s = .next { u with fault := some ⟨s.fetchWord, s.pc⟩, pc := BitVec.ofNat 12 (s.pc.toNat + 2) } ∧
    ∀ n, ¬ SafeFor (n + 1) s

/-- While the latch is set the core has no `Step`: it stops with the fault by name. A frame's step does nothing, and a tick
still counts the timers down. A run that passes through such a state, a reset after it or not, is no run without a fault (R142,
R176; decision D21, log entries 5, 7 and 12). -/
def Obligations.LatchedCoreHasNoStep : Prop :=
  ∀ (s : State) (c : UnknownOpcode), s.fault = some c →
    (s.frameLeft = none → s.schedule = [] → step s = .fault (.coreStopped c)) ∧
    (∀ rest, s.frameLeft = none → s.schedule = .step :: rest → step s = .fault (.coreStopped c)) ∧
    (∀ rest, s.frameLeft = some (none :: rest) → step s = .next (s.setFrameLeft (some rest))) ∧
    (∀ rest, s.frameLeft = none → s.schedule = .tick :: rest → step s = .next ((s.setSchedule rest).tick)) ∧
    ∀ (r : State) (k n : Nat), k ≤ n → steps k r = .next s → ¬ SafeFor n r

/-- Once the latch is set it keeps its value, and no register, byte, dot, `I`, `pc` or `sp` changes, in every transition but a
reset (R20, R25, R142; decision D21). -/
def Obligations.LatchStaysUntilReset : Prop :=
  ∀ (s t : State) (c : UnknownOpcode), s.fault = some c → ¬ s.resetNext → step s = .next t →
    t.fault = some c ∧ (∀ r, t.reg r = s.reg r) ∧ (∀ a, t.mem.read a = s.mem.read a) ∧ t.disp = s.disp ∧
    t.i = s.i ∧ t.pc = s.pc ∧ t.sp = s.sp

/-- No instruction stops the core or sets the latch, whatever the state and the operands: addresses wrap, the stack wraps,
arithmetic wraps (R143, R144; decisions D1, D2, D3, D14, D18, D19). -/
def Obligations.EveryInstructionCompletes : Prop :=
  ∀ (i : Instr) (s : State), ∃ t, exec i s = .next t ∧ t.fault = s.fault

/-- The word fetched is `Mem[pc] * 256 + Mem[(pc + 1) mod 4096]`, at any `pc`, even or odd (R33, R34, R35; decisions D2, D5). -/
def Obligations.FetchIsBigEndianAtAnyPc : Prop :=
  ∀ s : State, s.fetchWord.toNat = (s.mem.read s.pc.toNat).toNat * 256 + (s.mem.read ((s.pc.toNat + 1) % 4096)).toNat

/-- A byte stored by store-registers at either byte of the next instruction is in the word the next step fetches,
with nothing needed between (R43, R44; derived by the spec from R32 and R43). -/
def Obligations.StoreIsSeenByTheNextFetch : Prop :=
  ∀ (s : State) (x k : Reg), k ≤ x →
    ∃ t, exec (.ldMemVx x) s = .next t ∧
      ((s.i.toNat + k.val) % 4096 = s.pc.toNat → t.fetchWord.toNat / 256 = (s.reg k).toNat) ∧
      ((s.i.toNat + k.val) % 4096 = (s.pc.toNat + 1) % 4096 → t.fetchWord.toNat % 256 = (s.reg k).toNat)

/-! ## Memory -/

/-- Two memories in canonical form, of one font, that read alike at every address are equal: equal memories are equal data (the
model's form of R30's array, log entry 8). -/
def Obligations.CanonicalMemoriesThatReadAlikeAreEqual : Prop :=
  ∀ m m' : Memory, m.wf → m'.wf → m.font = m'.font → (∀ a, m.read a = m'.read a) → m = m'

/-- No instruction changes a byte outside the addresses that section 11 of spec/20_memory.md lists for it, and only call,
store-bcd and store-registers change any byte (R36; decision D29). -/
def Obligations.OnlyPresentedBytesAreWritten : Prop :=
  ∀ (i : Instr) (s t : State), exec i s = .next t →
    s.SameMemBut t (s.dataAddrs i) ∧
    ((∀ nnn, i ≠ .call nnn) → (∀ x, i ≠ .ldB x) → (∀ x, i ≠ .ldMemVx x) → ∀ a, t.mem.read a = s.mem.read a)

/-- What an instruction does beside memory depends on memory only through the bytes at the addresses that section 11 of
spec/20_memory.md lists for it (R36; decision D29). -/
def Obligations.OnlyPresentedBytesAreRead : Prop :=
  ∀ (i : Instr) (s t : State) (m : Memory), (∀ a ∈ s.dataAddrs i, m.read a = s.mem.read a) → exec i s = .next t →
    ∃ u, exec i (s.setMem m) = .next u ∧ ∀ m', u.setMem m' = t.setMem m'

/-! ## Control transfer -/

/-- R71: `1nnn` decodes to the jump, the jump sets `pc` to `nnn`, odd or even, and changes nothing else; a jump to its own
address is a fixed point of `Step` (that an empty schedule means the core steps is log entry 5). The numeric pattern is log
entry 9. -/
def Obligations.JumpSetsPc : Prop :=
  ∀ (nnn : Addr) (s : State),
    decodeWord (wordANNN 0x1 nnn) = some (.jp nnn) ∧
    (∃ t, exec (.jp nnn) s = .next t ∧ t.pc = nnn ∧ s.SameBut t [.pc]) ∧
    (s.frameLeft = none → s.schedule = [] → s.running → s.fetchWord = wordANNN 0x1 s.pc → step s = .next s)

/-- R72: call writes the address after it, high byte first, at the stack entry `sp`, moves `sp` up modulo 16 and jumps; every
other byte and all else is unchanged (decisions D3, D4 and D5; the stack's place is log entry 1). The numeric pattern is log
entry 9. -/
def Obligations.CallPushesTheNextAddress : Prop :=
  ∀ (nnn : Addr) (s : State),
    decodeWord (wordANNN 0x2 nnn) = some (.call nnn) ∧
    ∃ t, exec (.call nnn) s = .next t ∧ t.pc = nnn ∧ t.sp.toNat = (s.sp.toNat + 1) % 16 ∧
      (t.mem.read (s.params.stackBase.toNat + 2 * s.sp.toNat)).toNat = s.pc.toNat / 256 ∧
      (t.mem.read (s.params.stackBase.toNat + 2 * s.sp.toNat + 1)).toNat = s.pc.toNat % 256 ∧
      s.SameMemBut t [s.params.stackBase.toNat + 2 * s.sp.toNat, s.params.stackBase.toNat + 2 * s.sp.toNat + 1] ∧
      s.SameBut t [.pc, .sp, .mem]

/-- R70: return moves `sp` down modulo 16 and sets `pc` to the low 12 bits of that entry; memory is not changed (decisions D3,
D5, D30 and D34; the stack's place is log entry 1). The numeric pattern is log entry 9. -/
def Obligations.ReturnPopsTheStack : Prop :=
  decodeWord 0x00EE = some .ret ∧
  ∀ s : State, ∃ t, exec .ret s = .next t ∧ t.sp.toNat = (s.sp.toNat + 15) % 16 ∧
    t.pc.toNat = ((s.mem.read (s.params.stackBase.toNat + 2 * t.sp.toNat)).toNat * 256 +
      (s.mem.read (s.params.stackBase.toNat + 2 * t.sp.toNat + 1)).toNat) % 4096 ∧ s.SameBut t [.pc, .sp]

/-- A return undoes a call, at any depth and whatever the subroutine did to the rest of the state, provided `sp` and the two
bytes of the entry are as the call left them (R70, R72; decisions D3 and D5). -/
def Obligations.ReturnUndoesCall : Prop :=
  ∀ (nnn : Addr) (s : State), ∃ t, exec (.call nnn) s = .next t ∧
    ∀ u : State, u.sp = t.sp → u.params = t.params →
      (∀ k < 2, u.mem.read (s.params.stackBase.toNat + 2 * s.sp.toNat + k) =
        t.mem.read (s.params.stackBase.toNat + 2 * s.sp.toNat + k)) →
      ∃ w, exec .ret u = .next w ∧ w.pc = s.pc ∧ w.sp = s.sp

/-- R73: `3xnn` decodes to skip-if-equal reg,imm, which adds 2 to `pc`, modulo 4096, when the whole register equals `nn`; nothing
else changes, for any `x`, 15 among them. -/
def Obligations.SkipIfEqualImmediate : Prop :=
  ∀ (x : Reg) (nn : Byte) (s : State),
    decodeWord (wordAXNN 0x3 x nn.toNat) = some (.seImm x nn) ∧
    ∃ t, exec (.seImm x nn) s = .next t ∧
      t.pc.toNat = (if (s.reg x).toNat = nn.toNat then (s.pc.toNat + 2) % 4096 else s.pc.toNat) ∧ s.SameBut t [.pc]

/-- R74: skip-if-not-equal reg,imm adds 2 to `pc`, modulo 4096, when the whole register differs from `nn`; nothing else changes
(the pattern `4xnn` is log entry 9). -/
def Obligations.SkipIfNotEqualImmediate : Prop :=
  ∀ (x : Reg) (nn : Byte) (s : State),
    decodeWord (wordAXNN 0x4 x nn.toNat) = some (.sneImm x nn) ∧
    ∃ t, exec (.sneImm x nn) s = .next t ∧
      t.pc.toNat = (if (s.reg x).toNat = nn.toNat then s.pc.toNat else (s.pc.toNat + 2) % 4096) ∧ s.SameBut t [.pc]

/-- R75 and R76: the register skips; with `x = y` the first always skips and the second never does (the low nibble is fixed by
decision D8). The numeric patterns are log entry 9. -/
def Obligations.SkipsOnRegister : Prop :=
  ∀ (x y : Reg) (s : State),
    decodeWord (wordAXYN 0x5 x y 0) = some (.seReg x y) ∧
    decodeWord (wordAXYN 0x9 x y 0) = some (.sneReg x y) ∧
    (∃ t, exec (.seReg x y) s = .next t ∧
      t.pc.toNat = (if (s.reg x).toNat = (s.reg y).toNat then (s.pc.toNat + 2) % 4096 else s.pc.toNat) ∧ s.SameBut t [.pc]) ∧
    (∃ t, exec (.sneReg x y) s = .next t ∧
      t.pc.toNat = (if (s.reg x).toNat = (s.reg y).toNat then s.pc.toNat else (s.pc.toNat + 2) % 4096) ∧ s.SameBut t [.pc])

/-- R79: a skip that is taken leaves `pc` at the skip's own address plus 4, modulo 4096, whichever of the six forms it is, and
the two bytes skipped are not looked at: with any bytes there the step does the same. -/
def Obligations.TakenSkipLandsFourOn : Prop :=
  ∀ (s : State) (i : Instr) (b c : Byte) (m : Memory), s.runsNext i →
    ((∃ x nn, i = .seImm x nn ∧ s.reg x = nn) ∨ (∃ x nn, i = .sneImm x nn ∧ s.reg x ≠ nn) ∨
     (∃ x y, i = .seReg x y ∧ s.reg x = s.reg y) ∨ (∃ x y, i = .sneReg x y ∧ s.reg x ≠ s.reg y) ∨
     (∃ x, i = .skp x ∧ s.keyDown (s.reg x) = true) ∨ (∃ x, i = .sknp x ∧ s.keyDown (s.reg x) = false)) →
    m = (s.mem.write (s.pc.toNat + 2) b).write (s.pc.toNat + 3) c →
    ∃ t, step s = .next t ∧ t.pc.toNat = (s.pc.toNat + 4) % 4096 ∧ step (s.setMem m) = .next (t.setMem m)

/-- R77: jump-indexed sets `pc` to `nnn` plus `V[0]`, modulo 4096, and changes nothing else; the `x` nibble is part of `nnn`.
The numeric pattern is log entry 9. -/
def Obligations.JumpIndexedAddsV0 : Prop :=
  ∀ (nnn : Addr) (s : State),
    decodeWord (wordANNN 0xB nnn) = some (.jpV0 nnn) ∧
    ∃ t, exec (.jpV0 nnn) s = .next t ∧ t.pc.toNat = (nnn.toNat + (s.reg 0).toNat) % 4096 ∧ s.SameBut t [.pc]

/-- `sp` is moved only by call and return, one entry each time modulo 16, and cleared by a reset (R16; decision D3). -/
def Obligations.OnlyCallAndReturnMoveSp : Prop :=
  ∀ s t : State, step s = .next t → ¬ s.resetNext →
    t.sp = s.sp ∨ ((∃ nnn, s.runsNext (.call nnn)) ∧ t.sp.toNat = (s.sp.toNat + 1) % 16) ∨
      (s.runsNext .ret ∧ t.sp.toNat = (s.sp.toNat + 15) % 16)

/-! ## Registers, arithmetic, logic, shifts -/

/-- R80: `6xnn` decodes to load reg,imm, which assigns `nn`; no other register, `VF` among them, and nothing else changes. -/
def Obligations.LoadImmediateAssigns : Prop :=
  ∀ (x : Reg) (nn : Byte) (s : State),
    decodeWord (wordAXNN 0x6 x nn.toNat) = some (.ldImm x nn) ∧
    ∃ t, exec (.ldImm x nn) s = .next t ∧ t.reg x = nn ∧ s.SameRegsBut t [x] ∧ s.SameBut t [.regs]

/-- R82: load reg,reg assigns `V[y]` to `V[x]`; no other register and nothing else changes (the pattern `8xy0` is log entry 9). -/
def Obligations.LoadRegisterAssigns : Prop :=
  ∀ (x y : Reg) (s : State),
    decodeWord (wordAXYN 0x8 x y 0x0) = some (.ldReg x y) ∧
    ∃ t, exec (.ldReg x y) s = .next t ∧ t.reg x = s.reg y ∧ s.SameRegsBut t [x] ∧ s.SameBut t [.regs]

/-- R81: add reg,imm wraps modulo 256 and reports no carry: `VF` is not written unless it is the destination. The numeric
pattern is log entry 9. -/
def Obligations.AddImmediateWrapsWithoutFlag : Prop :=
  ∀ (x : Reg) (nn : Byte) (s : State),
    decodeWord (wordAXNN 0x7 x nn.toNat) = some (.addImm x nn) ∧
    ∃ t, exec (.addImm x nn) s = .next t ∧ (t.reg x).toNat = ((s.reg x).toNat + nn.toNat) % 256 ∧
      s.SameRegsBut t [x] ∧ s.SameBut t [.regs]

/-- R83, R84 and R85: OR, AND and XOR combine the registers bit by bit into `V[x]`; `VF` is not written unless it is `V[x]`.
The numeric patterns are log entry 9. -/
def Obligations.LogicCombinesBits : Prop :=
  ∀ (x y : Reg) (s : State),
    decodeWord (wordAXYN 0x8 x y 0x1) = some (.or x y) ∧ decodeWord (wordAXYN 0x8 x y 0x2) = some (.and x y) ∧
    decodeWord (wordAXYN 0x8 x y 0x3) = some (.xor x y) ∧
    (∃ t, exec (.or x y) s = .next t ∧
      (∀ k < 8, (t.reg x).getLsbD k = ((s.reg x).getLsbD k || (s.reg y).getLsbD k)) ∧
      s.SameRegsBut t [x] ∧ s.SameBut t [.regs]) ∧
    (∃ t, exec (.and x y) s = .next t ∧
      (∀ k < 8, (t.reg x).getLsbD k = ((s.reg x).getLsbD k && (s.reg y).getLsbD k)) ∧
      s.SameRegsBut t [x] ∧ s.SameBut t [.regs]) ∧
    (∃ t, exec (.xor x y) s = .next t ∧
      (∀ k < 8, (t.reg x).getLsbD k = ((s.reg x).getLsbD k != (s.reg y).getLsbD k)) ∧
      s.SameRegsBut t [x] ∧ s.SameBut t [.regs])

/-- R86: add reg,reg leaves the sum modulo 256 in `V[x]` and the carry in `VF`; with `x = 15` `VF` ends as the carry (decision
D10), and an operand that is `VF` is the old value. The numeric pattern is log entry 9. -/
def Obligations.AddReportsCarry : Prop :=
  ∀ (x y : Reg) (s : State),
    decodeWord (wordAXYN 0x8 x y 0x4) = some (.addReg x y) ∧
    ∃ t, exec (.addReg x y) s = .next t ∧
      (x ≠ VF → (t.reg x).toNat = ((s.reg x).toNat + (s.reg y).toNat) % 256) ∧
      t.reg VF = (if (s.reg x).toNat + (s.reg y).toNat > 255 then 1 else 0) ∧
      s.SameRegsBut t [x, VF] ∧ s.SameBut t [.regs]

/-- R87 and R89: sub leaves `V[x] - V[y]` and subn `V[y] - V[x]`, modulo 256, in `V[x]`; `VF` is 1 when no borrow occurred,
else 0; with `x = 15` `VF` ends as the flag (decision D10; the polarity is spec/90_conflicts.md C1). The numeric patterns are
log entry 9. -/
def Obligations.SubtractionsReportNoBorrow : Prop :=
  ∀ (x y : Reg) (s : State),
    decodeWord (wordAXYN 0x8 x y 0x5) = some (.sub x y) ∧ decodeWord (wordAXYN 0x8 x y 0x7) = some (.subn x y) ∧
    (∃ t, exec (.sub x y) s = .next t ∧
      (x ≠ VF → (t.reg x).toNat = ((s.reg x).toNat + 256 - (s.reg y).toNat) % 256) ∧
      t.reg VF = (if (s.reg x).toNat ≥ (s.reg y).toNat then 1 else 0) ∧
      s.SameRegsBut t [x, VF] ∧ s.SameBut t [.regs]) ∧
    (∃ t, exec (.subn x y) s = .next t ∧
      (x ≠ VF → (t.reg x).toNat = ((s.reg y).toNat + 256 - (s.reg x).toNat) % 256) ∧
      t.reg VF = (if (s.reg y).toNat ≥ (s.reg x).toNat then 1 else 0) ∧
      s.SameRegsBut t [x, VF] ∧ s.SameBut t [.regs])

/-- R88 and R90: the shifts move `V[x]` by one place, a zero comes in, the bit that goes out is in `VF`; `y` is accepted
whatever it is and neither read nor written (decisions D10 and D11). The numeric patterns are log entry 9. -/
def Obligations.ShiftsReportTheBitOut : Prop :=
  ∀ (x y : Reg) (s : State),
    decodeWord (wordAXYN 0x8 x y 0x6) = some (.shr x y) ∧ decodeWord (wordAXYN 0x8 x y 0xE) = some (.shl x y) ∧
    (∃ t, exec (.shr x y) s = .next t ∧ (x ≠ VF → (t.reg x).toNat = (s.reg x).toNat / 2) ∧
      (t.reg VF).toNat = (s.reg x).toNat % 2 ∧ s.SameRegsBut t [x, VF] ∧ s.SameBut t [.regs]) ∧
    (∃ t, exec (.shl x y) s = .next t ∧ (x ≠ VF → (t.reg x).toNat = (s.reg x).toNat * 2 % 256) ∧
      (t.reg VF).toNat = (s.reg x).toNat / 128 ∧ s.SameRegsBut t [x, VF] ∧ s.SameBut t [.regs])

/-- R12: the seven flag-writing instructions leave 0 or 1 in `VF` on every execution; every other instruction leaves `VF` alone
unless it names it as its destination (for load-registers, unless `x = 15`). -/
def Obligations.SevenInstructionsWriteTheFlag : Prop :=
  ∀ (i : Instr) (s t : State), exec i s = .next t →
    match i with
    | .addReg _ _ | .sub _ _ | .shr _ _ | .subn _ _ | .shl _ _ | .addI _ | .drw _ _ _ => t.reg VF = 0 ∨ t.reg VF = 1
    | .ldImm x _ | .addImm x _ | .rnd x _ | .ldReg x _ | .or x _ | .and x _ | .xor x _ | .ldVxDt x | .ldVxMem x =>
      x ≠ VF → t.reg VF = s.reg VF
    | _ => t.reg VF = s.reg VF

/-- R10, R11, R12: an instruction reads no register but those its rule names: with any other register changed, `VF` among them, it
does the same to all the rest of the state. Which registers those are is said by the families' rules (R70 to R77, R80 to R90,
R100 to R105, R110, R111, R120 to R125); that the shifts do not read `V[y]` is decision D11 (R88, R90; log entry 17). -/
def Obligations.OnlyNamedRegistersAreRead : Prop :=
  ∀ (i : Instr) (s t : State) (r : Reg) (b : Byte), r ∉ readRegs i → exec i s = .next t →
    ∃ u, exec i (s.setReg r b) = .next u ∧ ∀ c, u.setReg r c = t.setReg r c

/-! ## Index register and memory -/

/-- R100: load index sets `I` to `nnn` and changes nothing else. The numeric pattern is log entry 9. -/
def Obligations.LoadIndexAssigns : Prop :=
  ∀ (nnn : Addr) (s : State),
    decodeWord (wordANNN 0xA nnn) = some (.ldI nnn) ∧
    ∃ t, exec (.ldI nnn) s = .next t ∧ t.i = nnn ∧ s.SameBut t [.index]

/-- R101: add index,reg leaves the sum modulo 4096 in `I` and in `VF` whether the exact sum exceeds `0xFFF`; an operand that
is `VF` is the old value (decisions D2 and D10). The numeric pattern is log entry 9. -/
def Obligations.AddIndexReportsOverflow : Prop :=
  ∀ (x : Reg) (s : State),
    decodeWord (wordAXNN 0xF x 0x1E) = some (.addI x) ∧
    ∃ t, exec (.addI x) s = .next t ∧ t.i.toNat = (s.i.toNat + (s.reg x).toNat) % 4096 ∧
      t.reg VF = (if s.i.toNat + (s.reg x).toNat > 0xFFF then 1 else 0) ∧
      s.SameRegsBut t [VF] ∧ s.SameBut t [.regs, .index]

/-- R102: load font-glyph sets `I` to 5 times the whole register, and for a digit the five bytes there are its glyph as the
memory after reset holds it (decision D14; the font's bytes are log entry 2). The numeric pattern is log entry 9. -/
def Obligations.GlyphAddressIsFiveTimesTheRegister : Prop :=
  ∀ (x : Reg) (s : State),
    decodeWord (wordAXNN 0xF x 0x29) = some (.ldF x) ∧
    ∃ t, exec (.ldF x) s = .next t ∧ t.i.toNat = 5 * (s.reg x).toNat ∧ s.SameBut t [.index] ∧
      ((s.reg x).toNat < 16 →
        (∀ r < 5, some (s.mem.cleared.read (t.i.toNat + r)) = s.mem.font.toList[5 * (s.reg x).toNat + r]?) ∧
        some (State.reset.mem.readBytes t.i.toNat 5) = glyphs[(s.reg x).toNat]?)

/-- R103: store-bcd writes the hundreds, tens and units digits at `I`, `I + 1` and `I + 2`, each address modulo 4096; `I`, the
other bytes and all else are unchanged (decision D13). The numeric pattern is log entry 9. -/
def Obligations.BcdStoresThreeDigits : Prop :=
  ∀ (x : Reg) (s : State),
    decodeWord (wordAXNN 0xF x 0x33) = some (.ldB x) ∧
    ∃ t, exec (.ldB x) s = .next t ∧
      (s.reg x).toNat = 100 * (t.mem.read s.i.toNat).toNat + 10 * (t.mem.read (s.i.toNat + 1)).toNat +
        (t.mem.read (s.i.toNat + 2)).toNat ∧
      (t.mem.read (s.i.toNat + 1)).toNat ≤ 9 ∧ (t.mem.read (s.i.toNat + 2)).toNat ≤ 9 ∧
      s.SameMemBut t [s.i.toNat, s.i.toNat + 1, s.i.toNat + 2] ∧ s.SameBut t [.mem]

/-- R104: store-registers writes `V[0]` to `V[x]` at `I`, `I + 1`, … modulo 4096, and leaves `I` at `I + x + 1` modulo 4096;
the registers, the other bytes and all else are unchanged. The numeric pattern is log entry 9. -/
def Obligations.StoreRegistersWritesInOrder : Prop :=
  ∀ (x : Reg) (s : State),
    decodeWord (wordAXNN 0xF x 0x55) = some (.ldMemVx x) ∧
    ∃ t, exec (.ldMemVx x) s = .next t ∧ (∀ k ≤ x, t.mem.read (s.i.toNat + k.val) = s.reg k) ∧
      t.i.toNat = (s.i.toNat + x.val + 1) % 4096 ∧
      s.SameMemBut t ((List.range (x.val + 1)).map (s.i.toNat + ·)) ∧ s.SameBut t [.mem, .index]

/-- R105: load-registers reads `V[0]` to `V[x]` from `I`, `I + 1`, … modulo 4096, and leaves `I` at `I + x + 1` modulo 4096;
the registers above `x`, memory and all else are unchanged (decision D12). The numeric pattern is log entry 9. -/
def Obligations.LoadRegistersReadsInOrder : Prop :=
  ∀ (x : Reg) (s : State),
    decodeWord (wordAXNN 0xF x 0x65) = some (.ldVxMem x) ∧
    ∃ t, exec (.ldVxMem x) s = .next t ∧ (∀ k ≤ x, t.reg k = s.mem.read (s.i.toNat + k.val)) ∧
      t.i.toNat = (s.i.toNat + x.val + 1) % 4096 ∧
      (∀ k, x < k → t.reg k = s.reg k) ∧ s.SameBut t [.regs, .index]

/-- Storing `V[0]` to `V[x]` and loading them from the same base into any register file gives them back, leaves the registers
above `x` as they were there, and ends with the same `I` (R104, R105; spec/95_test_vectors.md S9, decision D12). -/
def Obligations.StoreThenLoadRoundTrip : Prop :=
  ∀ (x : Reg) (s : State) (w : Vector Byte 16), ∃ t u,
    exec (.ldMemVx x) s = .next t ∧ exec (.ldVxMem x) ((t.setRegs w).setI s.i) = .next u ∧
    (∀ k ≤ x, u.reg k = s.reg k) ∧ (∀ k, x < k → u.reg k = w.get k) ∧ u.i = t.i

/-! ## Display -/

/-- R110: clear-screen leaves every dot unlit and changes nothing else, `VF` included. -/
def Obligations.ClearScreenUnlightsEveryDot : Prop :=
  decodeWord 0x00E0 = some .cls ∧
  ∀ s : State, ∃ t, exec .cls s = .next t ∧ (∀ k < 2048, t.disp.getLsbD k = false) ∧ s.SameBut t [.disp]

/-- R111: draw-sprite inverts exactly the dots on which a 1 bit of the sprite lands and leaves in `VF` whether one of them was
lit; `I`, memory and all else are unchanged (decisions D16, D17, D18 and D33; log entry 10). The numeric pattern is log entry
9. -/
def Obligations.DrawInvertsTheDotsUnderTheSprite : Prop :=
  ∀ (x y : Reg) (n : Nat) (s : State), n ≤ 15 →
    decodeWord (wordAXYN 0xD x y n) = some (.drw x y n) ∧
    ∃ t, exec (.drw x y n) s = .next t ∧
      (∀ k < 2048, s.lands x y n k → t.disp.getLsbD k = !s.disp.getLsbD k) ∧
      (∀ k < 2048, ¬ s.lands x y n k → t.disp.getLsbD k = s.disp.getLsbD k) ∧
      ((∃ k < 2048, s.lands x y n k ∧ s.disp.getLsbD k = true) → t.reg VF = 1) ∧
      ((∀ k < 2048, s.lands x y n k → s.disp.getLsbD k = false) → t.reg VF = 0) ∧
      s.SameRegsBut t [VF] ∧ s.SameBut t [.regs, .disp]

/-- R112: two draws of one sprite at one place give the display back; the first draw's flag says whether a dot under the sprite
was lit before, the second's whether one was unlit (derived by the spec from R111). -/
def Obligations.DrawTwiceRestoresTheDisplay : Prop :=
  ∀ (x y : Reg) (n : Nat) (s : State), n ≤ 15 → x ≠ VF → y ≠ VF →
    ∃ t u, exec (.drw x y n) s = .next t ∧ exec (.drw x y n) t = .next u ∧ u.disp = s.disp ∧
      (t.reg VF = 1 ↔ ∃ k < 2048, s.lands x y n k ∧ s.disp.getLsbD k = true) ∧
      (u.reg VF = 1 ↔ ∃ k < 2048, s.lands x y n k ∧ s.disp.getLsbD k = false)

/-- R113: at the end of a frame, and at no other time, the host is presented 2048 bytes with width 64 and height 32, byte `k`
being `FB_ON` or `FB_OFF` as dot `k` is lit or not, in row-major order, and the fault; presenting changes no other state
(R155, R173, R176; decisions D17 and D27; the bytes' defaults are log entry 3, the record of the presentation log entry 12). -/
def Obligations.FramebufferShowsEveryDot : Prop :=
  (∀ s : State, s.presentNext → ∃ p : Presentation,
    step s = .next { s with frameLeft := none, presented := some p } ∧
    p.fb.toList.length = 2048 ∧ p.width = 64 ∧ p.height = 32 ∧ p.fault = s.fault ∧
    ∀ px < 64, ∀ py < 32,
      p.fb.toList[py * 64 + px]? = some (if s.disp.getLsbD (py * 64 + px) then s.params.fbOn else s.params.fbOff)) ∧
  ∀ s t : State, step s = .next t → ¬ s.presentNext → ¬ s.resetNext → t.presented = s.presented

/-- R114: no transition changes a dot, a tick, a frame's beginning and the presentation of the framebuffer among them, but a
clear-screen or a draw-sprite that the core executes and a reset. -/
def Obligations.DisplayPersists : Prop :=
  ∀ s t : State, step s = .next t → ¬ s.resetNext →
    t.disp = s.disp ∨ s.runsNext .cls ∨ ∃ x y n, s.runsNext (.drw x y n)

/-! ## Keys, timers, random -/

/-- R122, R123 and R124: the timer moves copy the whole byte; the timer read is unchanged, and nothing else changes. The
numeric patterns are log entry 9. -/
def Obligations.TimerMovesCopy : Prop :=
  ∀ (x : Reg) (s : State),
    decodeWord (wordAXNN 0xF x 0x07) = some (.ldVxDt x) ∧ decodeWord (wordAXNN 0xF x 0x15) = some (.ldDtVx x) ∧
    decodeWord (wordAXNN 0xF x 0x18) = some (.ldStVx x) ∧
    (∃ t, exec (.ldVxDt x) s = .next t ∧ t.reg x = s.dt ∧ s.SameRegsBut t [x] ∧ s.SameBut t [.regs]) ∧
    (∃ t, exec (.ldDtVx x) s = .next t ∧ t.dt = s.reg x ∧ s.SameBut t [.dt]) ∧
    (∃ t, exec (.ldStVx x) s = .next t ∧ t.st = s.reg x ∧ s.SameBut t [.st])

/-- R120 and R121: the key skips test the key that the low nibble of `V[x]` names (decision D19). The numeric patterns are log
entry 9. -/
def Obligations.SkipsOnKey : Prop :=
  ∀ (x : Reg) (s : State),
    decodeWord (wordAXNN 0xE x 0x9E) = some (.skp x) ∧ decodeWord (wordAXNN 0xE x 0xA1) = some (.sknp x) ∧
    (∃ t, exec (.skp x) s = .next t ∧
      t.pc.toNat = (if s.keys.get ⟨(s.reg x).toNat % 16, Nat.mod_lt _ (Nat.succ_pos _)⟩ = true
        then (s.pc.toNat + 2) % 4096 else s.pc.toNat) ∧ s.SameBut t [.pc]) ∧
    (∃ t, exec (.sknp x) s = .next t ∧
      t.pc.toNat = (if s.keys.get ⟨(s.reg x).toNat % 16, Nat.mod_lt _ (Nat.succ_pos _)⟩ = true
        then s.pc.toNat else (s.pc.toNat + 2) % 4096) ∧ s.SameBut t [.pc])

/-- R125: random leaves the byte drawn, masked with `nn`, in `V[x]`; the draw is used up, so the next one is another; nothing
else changes (decision D20; what is drawn where no byte is supplied is a free value, log entry 4). The numeric pattern is log
entry 9. -/
def Obligations.RandomIsMaskedAndFresh : Prop :=
  ∀ (x : Reg) (nn : Byte) (s : State),
    decodeWord (wordAXNN 0xC x nn.toNat) = some (.rnd x nn) ∧
    ∃ t, exec (.rnd x nn) s = .next t ∧ t.reg x = s.drawnByte &&& nn ∧
      (∀ b rest, s.randomIn = b :: rest → s.drawnByte = b ∧ t.randomIn = rest ∧ t.draws = s.draws) ∧
      (s.randomIn = [] → s.drawnByte = Config.randomByte s.draws ∧ t.randomIn = [] ∧ t.draws = s.draws + 1) ∧
      s.SameRegsBut t [x] ∧ s.SameBut t [.regs, .random]

/-- R125 and R153: exactly the bytes `r & nn` can result, each of them for some byte the random source supplies (decision D20). -/
def Obligations.RandomReachesEveryMaskedByte : Prop :=
  ∀ (x : Reg) (nn v : Byte) (s : State),
    (∃ bytes t, exec (.rnd x nn) { s with randomIn := bytes } = .next t ∧ t.reg x = v) ↔ v &&& nn = v

/-- R150, R175: a tick takes one from each timer that is not zero, a timer at zero stays there, and no other state of the hardware
changes: the schedule loses the tick (the model's choice, log entry 5); 1/60 second of real time, with nothing carried, is one
tick (decision D26; durations are log entry 13). -/
def Obligations.TickCountsBothTimersDown : Prop :=
  ∀ (s : State) (rest : List Event), s.frameLeft = none → s.schedule = .tick :: rest →
    (∃ t, step s = .next t ∧ t.dt.toNat = s.dt.toNat - 1 ∧ t.st.toNat = s.st.toNat - 1 ∧ t.schedule = rest ∧
      s.SameBut (t.setSchedule s.schedule) [.dt, .st]) ∧
    (s.tickAcc = 0 → s.elapse (1 / 60) = s.tick)

/-- R175: real time becomes whole ticks of 1/60 second with the remainder carried: `n` ticks and a remainder below one period
make up the time, both timers have gone down by `n` but not below zero, and nothing else changes (decision D26, log entry 13). -/
def Obligations.ElapsedTimeMakesWholeTicks : Prop :=
  ∀ (s : State) (d : Rat), 0 ≤ s.tickAcc → 0 ≤ d →
    ∃ n : Nat, s.tickAcc + d = n / 60 + (s.elapse d).tickAcc ∧ 0 ≤ (s.elapse d).tickAcc ∧ (s.elapse d).tickAcc < 1 / 60 ∧
      (s.elapse d).dt.toNat = s.dt.toNat - n ∧ (s.elapse d).st.toNat = s.st.toNat - n ∧
      s.elapse d = { s with dt := (s.elapse d).dt, st := (s.elapse d).st, tickAcc := (s.elapse d).tickAcc }

/-- R175: splitting a time into two loses no tick: the remainder is carried "rather than skipping decrements" (decision D26). -/
def Obligations.ElapsedTimesAddUp : Prop :=
  ∀ (s : State) (d e : Rat), 0 ≤ s.tickAcc → 0 ≤ d → 0 ≤ e → (s.elapse d).elapse e = s.elapse (d + e)

/-- R151: the delay timer never rises but by load delay-timer, in any transition other than a reset (decision D25: a tick may
come between any two steps). -/
def Obligations.DelayTimerRisesOnlyByItsLoad : Prop :=
  ∀ s t : State, step s = .next t → ¬ s.resetNext → t.dt.toNat ≤ s.dt.toNat ∨ ∃ x, s.runsNext (.ldDtVx x)

/-! ## Frames, reset, the invariant -/

/-- R176: a frame taken from the schedule, its ticks, its eight steps, the host's key changes between them and its presentation
one transition each, ends in exactly the state of `Frame(elapsed)` written in one piece, whether or not the latch is set on the
way, and has presented that state's framebuffer and fault (R113, R152; decisions D21 and D25; that the rest of the schedule
stays is the model's own choice, log entry 5; the parts of a frame are log entry 12). -/
def Obligations.FrameIsItsScheduledSteps : Prop :=
  ∀ (s : State) (d : Rat) (inputs : Vector (Option Keys) Config.instrPerFrame) (rest : List Event),
    s.frameLeft = none → 0 ≤ d →
    ∃ t, frame d inputs (s.setSchedule rest) = .next t ∧
      steps (10 + inputs.toList.countP Option.isSome) (s.setSchedule (.frame d inputs :: rest)) = .next t ∧
      t.schedule = rest ∧ t.frameLeft = none ∧ t.presented = some ⟨t.framebuffer, 64, 32, t.fault⟩

/-- R176: a frame that begins with the latch set performs its ticks and no step, and presents the framebuffer and the fault; beside
that only the host's key changes happen (decision D21, log entry 12). -/
def Obligations.LatchedFrameOnlyTicks : Prop :=
  ∀ (s : State) (d : Rat) (inputs : Vector (Option Keys) Config.instrPerFrame), s.fault ≠ none → 0 ≤ d →
    ∃ t, frame d inputs s = .next t ∧
      t = { s.elapse d with keys := t.keys, presented := some ⟨s.framebuffer, 64, 32, s.fault⟩ } ∧
      ((∀ k, inputs.get k = none) → t.keys = s.keys)

/-- R152, R176: the host may change the keys between any two steps, before any step of a frame too, and the next step sees them;
a change touches the keys alone, beside the turn it takes (log entries 5 and 12). -/
def Obligations.KeysMayChangeBetweenAnyTwoSteps : Prop :=
  ∀ (s : State) (ks : Keys),
    (∀ rest, s.frameLeft = none → s.schedule = .keys ks :: rest → step s = .next { s with keys := ks, schedule := rest }) ∧
    (∀ rest, s.frameLeft = some (some ks :: rest) →
      ∃ t, step s = .next t ∧ t = { s with keys := ks, frameLeft := some (none :: rest) } ∧
        t.coreTurn (t.setFrameLeft (some rest)))

/-- R170, R24, R39: a reset with an image of at most 3584 bytes leaves every register, `I`, `sp`, both timers and every dot 0, `pc`
at `0x200`, the latch clear and no time carried, and memory the font, the image and zeros, whatever the state before; a longer
image is refused (decisions D22 and D23). The OPEN parameters, the font among them, stay (R3; their defaults are log entries 1,
2 and 3). THE MODEL'S OWN CHOICES, which no rule names: the rest of the schedule stays (DESIGN CHOICE, log entry 5), no frame is
in progress and none has presented (DESIGN CHOICE, log entry 12). -/
def Obligations.ResetSetsEveryPieceOfState : Prop :=
  ∀ (s : State) (rom : List Byte) (rest : List Event), s.frameLeft = none → s.schedule = .reset rom :: rest →
    (rom.length ≤ 3584 →
      ∃ t, step s = .next t ∧ (∀ r, t.reg r = 0) ∧ t.i = 0 ∧ t.pc = 0x200 ∧ t.sp = 0 ∧ t.dt = 0 ∧ t.st = 0 ∧
        t.fault = none ∧ t.tickAcc = 0 ∧ (∀ k < 2048, t.disp.getLsbD k = false) ∧ t.schedule = rest ∧
        t.frameLeft = none ∧ t.presented = none ∧ t.params = s.params ∧ t.mem.font = s.mem.font ∧
        (∀ a < 80, some (t.mem.read a) = s.mem.font.toList[a]?) ∧
        (∀ k < rom.length, some (t.mem.read (0x200 + k)) = rom[k]?) ∧
        (∀ a < 4096, 80 ≤ a → ¬ (0x200 ≤ a ∧ a < 0x200 + rom.length) → t.mem.read a = 0)) ∧
    (3584 < rom.length → step s = .refused (.romTooLong rom.length))

/-- The state after reset meets the invariant, with the defaults of the OPEN parameters and with any values that R3's constraints
allow (R3, R23, R24; decision D22, log entries 1, 2, 3, 8, 12 and 13). -/
def Obligations.ResetMeetsTheInvariant : Prop :=
  State.reset.Inv ∧ ∀ (font : Font) (p : Params), p.legal → (State.initial font p).Inv

/-- Every transition, of whichever agent, keeps the invariant: memory stays in canonical form, the carried time stays below one
tick period, a frame owes at most eight steps, and the OPEN parameters stay legal; no transition changes a parameter, the font
among them (R3, R23, R25, R176; log entries 8, 12 and 13). -/
def Obligations.EveryStepKeepsTheInvariant : Prop :=
  ∀ s t : State, s.Inv → step s = .next t → t.Inv ∧ t.params = s.params ∧ t.mem.font = s.mem.font
end

