-- ==== Sys2Proof/Laws/Decode.lean ====
section
/-! SUPPORT. Which fields the formats of spec/30_encoding.md R53 hold: each field of R51 read from a word built of its fields. -/

namespace Sys2Proof

theorem toNat_extract (op : Opcode) (k w : Nat) : (op.extractLsb' k w).toNat = op.toNat / 2 ^ k % 2 ^ w := by
  simp [BitVec.extractLsb'_toNat, Nat.shiftRight_eq_div_pow]

theorem toNat_formatA (a : BitVec 4) (nnn : Addr) : (formatA a nnn).toNat = a.toNat * 4096 + nnn.toNat := by
  unfold formatA
  rw [BitVec.toNat_append, ← Nat.shiftLeft_add_eq_or_of_lt nnn.isLt, Nat.shiftLeft_eq]

theorem toNat_regBits (x : Reg) : (regBits x).toNat = x.val := rfl

theorem toNat_formatXB (a : BitVec 4) (x : Reg) (nn : Byte) :
    (formatXB a x nn).toNat = a.toNat * 4096 + x.val * 256 + nn.toNat := by
  unfold formatXB
  rw [BitVec.toNat_append, ← Nat.shiftLeft_add_eq_or_of_lt nn.isLt, Nat.shiftLeft_eq, BitVec.toNat_append,
    ← Nat.shiftLeft_add_eq_or_of_lt (regBits x).isLt, Nat.shiftLeft_eq, toNat_regBits]
  omega

theorem toNat_formatX (a : BitVec 4) (x : Reg) (low : Byte) :
    (formatX a x low).toNat = a.toNat * 4096 + x.val * 256 + low.toNat := toNat_formatXB a x low

theorem toNat_formatXY (a : BitVec 4) (x y : Reg) (n : BitVec 4) :
    (formatXY a x y n).toNat = a.toNat * 4096 + x.val * 256 + y.val * 16 + n.toNat := by
  unfold formatXY
  rw [BitVec.toNat_append, ← Nat.shiftLeft_add_eq_or_of_lt n.isLt, Nat.shiftLeft_eq, BitVec.toNat_append,
    ← Nat.shiftLeft_add_eq_or_of_lt (regBits y).isLt, Nat.shiftLeft_eq, BitVec.toNat_append,
    ← Nat.shiftLeft_add_eq_or_of_lt (regBits x).isLt, Nat.shiftLeft_eq, toNat_regBits, toNat_regBits]
  omega

theorem toNat_fieldA (op : Opcode) : (fieldA op).toNat = op.toNat / 4096 := by
  have := op.isLt
  rw [fieldA, toNat_extract]; omega

theorem val_fieldX (op : Opcode) : (fieldX op).val = op.toNat / 256 % 16 := toNat_extract op 8 4

theorem val_fieldY (op : Opcode) : (fieldY op).val = op.toNat / 16 % 16 := toNat_extract op 4 4

theorem toNat_fieldN (op : Opcode) : (fieldN op).toNat = op.toNat % 16 := by
  rw [fieldN, toNat_extract]; omega

theorem toNat_fieldNN (op : Opcode) : (fieldNN op).toNat = op.toNat % 256 := by
  rw [fieldNN, toNat_extract]; omega

theorem toNat_fieldNNN (op : Opcode) : (fieldNNN op).toNat = op.toNat % 4096 := by
  rw [fieldNNN, toNat_extract]; omega

@[simp] theorem fieldA_formatA (a : BitVec 4) (nnn : Addr) : fieldA (formatA a nnn) = a := by
  have := nnn.isLt
  apply BitVec.eq_of_toNat_eq; rw [toNat_fieldA, toNat_formatA]; omega

@[simp] theorem fieldNNN_formatA (a : BitVec 4) (nnn : Addr) : fieldNNN (formatA a nnn) = nnn := by
  have := nnn.isLt
  apply BitVec.eq_of_toNat_eq; rw [toNat_fieldNNN, toNat_formatA]; omega

@[simp] theorem fieldA_formatXB (a : BitVec 4) (x : Reg) (nn : Byte) : fieldA (formatXB a x nn) = a := by
  have := nn.isLt; have := x.isLt
  apply BitVec.eq_of_toNat_eq; rw [toNat_fieldA, toNat_formatXB]; omega

@[simp] theorem fieldX_formatXB (a : BitVec 4) (x : Reg) (nn : Byte) : fieldX (formatXB a x nn) = x := by
  have := nn.isLt; have := x.isLt
  apply Fin.ext; rw [val_fieldX, toNat_formatXB]; omega

@[simp] theorem fieldNN_formatXB (a : BitVec 4) (x : Reg) (nn : Byte) : fieldNN (formatXB a x nn) = nn := by
  have := nn.isLt
  apply BitVec.eq_of_toNat_eq; rw [toNat_fieldNN, toNat_formatXB]; omega

@[simp] theorem fieldA_formatX (a : BitVec 4) (x : Reg) (low : Byte) : fieldA (formatX a x low) = a := fieldA_formatXB a x low

@[simp] theorem fieldX_formatX (a : BitVec 4) (x : Reg) (low : Byte) : fieldX (formatX a x low) = x := fieldX_formatXB a x low

@[simp] theorem fieldNN_formatX (a : BitVec 4) (x : Reg) (low : Byte) : fieldNN (formatX a x low) = low := fieldNN_formatXB a x low

@[simp] theorem fieldA_formatXY (a : BitVec 4) (x y : Reg) (n : BitVec 4) : fieldA (formatXY a x y n) = a := by
  have := n.isLt; have := x.isLt; have := y.isLt
  apply BitVec.eq_of_toNat_eq; rw [toNat_fieldA, toNat_formatXY]; omega

@[simp] theorem fieldX_formatXY (a : BitVec 4) (x y : Reg) (n : BitVec 4) : fieldX (formatXY a x y n) = x := by
  have := n.isLt; have := x.isLt; have := y.isLt
  apply Fin.ext; rw [val_fieldX, toNat_formatXY]; omega

@[simp] theorem fieldY_formatXY (a : BitVec 4) (x y : Reg) (n : BitVec 4) : fieldY (formatXY a x y n) = y := by
  have := n.isLt; have := x.isLt; have := y.isLt
  apply Fin.ext; rw [val_fieldY, toNat_formatXY]; omega

@[simp] theorem fieldN_formatXY (a : BitVec 4) (x y : Reg) (n : BitVec 4) : fieldN (formatXY a x y n) = n := by
  have := n.isLt
  apply BitVec.eq_of_toNat_eq; rw [toNat_fieldN, toNat_formatXY]; omega

/-- The bytes of a word make the word again (R34). -/
@[simp] theorem wordOfBytes_bytesOfWord (op : Opcode) : wordOfBytes (op.extractLsb' 8 8) (op.extractLsb' 0 8) = op := by
  have := op.isLt
  apply BitVec.eq_of_toNat_eq
  unfold wordOfBytes
  rw [BitVec.toNat_append, ← Nat.shiftLeft_add_eq_or_of_lt (BitVec.isLt _), Nat.shiftLeft_eq, toNat_extract, toNat_extract]
  omega

end Sys2Proof
end

