-- ==== Sys2Proof/Laws/Display.lean ====
section
/-! SUPPORT. The sprite loop of spec/43_display.md R111 as one list of dots: what inverting each of them does. -/

namespace Sys2Proof.Machine

/-- A dot's index is one of the 2048 (R22). -/
theorem dotIndex_lt (px py : Nat) : dotIndex px py < Config.dots := by
  simp only [dotIndex, Config.width_eq, Config.height_eq, show Config.dots = 2048 from rfl]; omega

/-- Invert dot `k` and note whether it was lit. -/
def invertDot (acc : Display × Bool) (k : Nat) : Display × Bool :=
  (acc.1 ^^^ (1#Config.dots <<< k), acc.2 || acc.1.getLsbD k)

/-- The dots under the 1 bits of a sprite row, left to right. -/
def rowDots (x y : Nat) (row : Byte) : List Nat :=
  ((List.range 8).filter fun c => row.getLsbD (7 - c)).map fun c => dotIndex (x + c) y

/-- The dots under the 1 bits of a sprite, the top row first. -/
def spriteDots (x y : Nat) : List Byte → List Nat
  | [] => []
  | row :: rows => rowDots x y row ++ spriteDots x (y + 1) rows

/-- A row inverts the dots under its 1 bits. -/
theorem drawRow_eq (x y : Nat) (row : Byte) (acc : Display × Bool) :
    drawRow x y row acc = (rowDots x y row).foldl invertDot acc := by
  rw [drawRow, rowDots, List.foldl_map, List.foldl_filter]; rfl

/-- All a sprite does: it inverts the dots under its 1 bits, one after the other (R111). -/
theorem drawRows_eq (x y : Nat) (rows : List Byte) (acc : Display × Bool) :
    drawRows x y rows acc = (spriteDots x y rows).foldl invertDot acc := by
  induction rows generalizing y acc with
  | nil => rfl
  | cons row rows ih => rw [drawRows, ih, drawRow_eq, spriteDots, List.foldl_append]

/-- Inverting a dot flips that dot alone. -/
theorem getLsbD_invertDot (acc : Display × Bool) {j : Nat} (k : Nat) (hk : k < Config.dots) :
    (invertDot acc j).1.getLsbD k = (acc.1.getLsbD k ^^ decide (k = j)) := by
  simp only [invertDot, BitVec.getLsbD_xor, BitVec.getLsbD_shiftLeft, BitVec.getLsbD_one, hk]
  by_cases h : k = j
  · subst h; simp [show 0 < Config.dots by decide]
  · rcases Nat.lt_or_gt_of_ne h with h' | h'
    · simp [h, h']
    · simp [h, show ¬ k < j by omega, show ¬ (k - j = 0) by omega]

/-- Inverting distinct dots flips each of them (R112). -/
theorem getLsbD_foldl_invertDot (ks : List Nat) (hn : ks.Nodup) (acc : Display × Bool) (k : Nat) (hk : k < Config.dots) :
    (ks.foldl invertDot acc).1.getLsbD k = (acc.1.getLsbD k ^^ decide (k ∈ ks)) := by
  induction ks generalizing acc with
  | nil => simp
  | cons j ks ih =>
    obtain ⟨hj, hn⟩ := List.nodup_cons.mp hn
    rw [List.foldl_cons, ih hn, getLsbD_invertDot acc k hk]
    by_cases h : k = j
    · subst h; simp [hj]
    · simp [h]

/-- Inverting distinct dots of the display notes a collision exactly when one of them was lit (R111). -/
theorem snd_foldl_invertDot (ks : List Nat) (hn : ks.Nodup) (hks : ∀ k ∈ ks, k < Config.dots) (acc : Display × Bool) :
    (ks.foldl invertDot acc).2 = (acc.2 || ks.any fun k => acc.1.getLsbD k) := by
  induction ks generalizing acc with
  | nil => simp
  | cons j ks ih =>
    obtain ⟨hj, hn⟩ := List.nodup_cons.mp hn
    rw [List.foldl_cons, ih hn fun k hk => hks k (by simp [hk])]
    have : (ks.any fun k => (invertDot acc j).1.getLsbD k) = ks.any fun k => acc.1.getLsbD k := by
      rw [Bool.eq_iff_iff]
      simp only [List.any_eq_true]
      constructor <;> rintro ⟨k, hk, h⟩ <;> refine ⟨k, hk, ?_⟩ <;>
        have hne : k ≠ j := (fun e => hj (e ▸ hk)) <;>
        simpa [getLsbD_invertDot acc k (hks k (by simp [hk])), hne] using h
    rw [this, List.any_cons, ← Bool.or_assoc]; rfl

end Sys2Proof.Machine
end

