-- ==== Sys2Proof/Laws/Memory.lean ====
section
/-! SUPPORT. The laws of memory: what a read gives after a write, and that every memory operation keeps the canonical form
(spec/20_memory.md R30 to R33, R36). -/

namespace Sys2Proof.Machine.Memory

/-! ## The listed bytes -/

theorem cellsByteAt_unlist (f : Font) (cs : List Host.Cell) (a c : Nat) :
    cellsByteAt f (cellsUnlist cs a) c = if c = a then unlistedByte f a else cellsByteAt f cs c := by
  induction cs with
  | nil => by_cases h : c = a <;> simp [cellsUnlist, cellsByteAt, h]
  | cons e rest ih =>
    simp only [cellsUnlist] at ih
    by_cases h : e.1 = a
    · by_cases hc : c = a
      · simp_all [cellsUnlist]
      · have : ¬ a = c := fun h' => hc h'.symm
        simp_all [cellsUnlist, cellsByteAt]
    · by_cases hc : e.1 = c
      · subst hc; simp [cellsUnlist, cellsByteAt, h]
      · simp [cellsUnlist, cellsByteAt, h, hc, ih]

theorem cellsByteAt_enlist (f : Font) {cs : List Host.Cell} {a : Nat} (h : ∀ e ∈ cs, e.1 ≠ a) (b : Byte) (c : Nat) :
    cellsByteAt f (cellsEnlist cs a b) c = if c = a then b else cellsByteAt f cs c := by
  induction cs with
  | nil => simp [cellsEnlist, cellsByteAt, eq_comm]
  | cons e rest ih =>
    have he : e.1 ≠ a := h e (by simp)
    have ih := ih fun e he => h e (by simp [he])
    by_cases hlt : a < e.1
    · simp [cellsEnlist, hlt, cellsByteAt, eq_comm]
    · by_cases hc : e.1 = c
      · subst hc; simp [cellsEnlist, hlt, cellsByteAt, he]
      · simp [cellsEnlist, hlt, cellsByteAt, hc, ih]

theorem not_mem_unlist (cs : List Host.Cell) (a : Nat) : ∀ e ∈ cellsUnlist cs a, e.1 ≠ a := by
  intro e he
  simpa using (List.mem_filter.mp he).2

/-- Reading a byte after setting one. -/
theorem byteAt_setByte (m : Memory) (a : Nat) (b : Byte) (c : Nat) :
    (m.setByte a b).byteAt c = if c = a then b else m.byteAt c := by
  simp only [setByte, byteAt]
  split
  · rename_i h; rw [cellsByteAt_unlist]; simp only [h]
  · rw [cellsByteAt_enlist _ (not_mem_unlist _ a), cellsByteAt_unlist]; split <;> rfl

/-! ## The font is a parameter: no memory operation changes it (R3) -/

@[simp] theorem font_write (m : Memory) (a : Nat) (b : Byte) : (m.write a b).font = m.font := rfl

@[simp] theorem font_write2 (m : Memory) (a : Nat) (w : BitVec 16) : (m.write2 a w).font = m.font := rfl

@[simp] theorem font_cleared (m : Memory) : m.cleared.font = m.font := rfl

@[simp] theorem font_writeBytes (m : Memory) (a : Nat) (bs : List Byte) : (m.writeBytes a bs).font = m.font := by
  induction bs generalizing m a with
  | nil => rfl
  | cons b bs ih => rw [writeBytes, ih, font_write]

/-- Memory with nothing listed reads as its reset contents (R24). -/
theorem read_cleared (m : Memory) (a : Nat) : m.cleared.read a = unlistedByte m.font (a % 4096) := rfl

/-! ## Reads and writes -/

/-- A read sees the last write to its byte and no other (R31, R32). -/
@[simp] theorem read_write (m : Memory) (a : Nat) (b : Byte) (c : Nat) :
    (m.write a b).read c = if c % 4096 = a % 4096 then b else m.read c := by
  simp [read, write, byteAt_setByte]

/-- Every address is taken modulo 4096 (R31). -/
theorem read_mod (m : Memory) (a : Nat) : m.read (a % 4096) = m.read a := by simp [read]

/-- An address and one 4096 higher are the same byte (R31). -/
theorem read_congr (m : Memory) {a c : Nat} (h : a % 4096 = c % 4096) : m.read a = m.read c := by simp [read, h]

/-- Reading one byte after a two-byte write (R33). -/
theorem read_write2 (m : Memory) (a : Nat) (w : BitVec 16) (c : Nat) :
    (m.write2 a w).read c =
      if c % 4096 = (a + 1) % 4096 then w.extractLsb' 0 8
      else if c % 4096 = a % 4096 then w.extractLsb' 8 8 else m.read c := by
  simp [write2]

/-- A two-byte read gives back what a two-byte write stored at the same address (R33). -/
theorem read2_write2 (m : Memory) (a : Nat) (w : BitVec 16) : (m.write2 a w).read2 a = w := by
  have h : ¬ a % 4096 = (a + 1) % 4096 := by omega
  unfold read2
  rw [read_write2, read_write2]
  simp only [h, if_true, if_false]
  ext k hk
  simp only [BitVec.getElem_append, BitVec.getElem_extractLsb']
  split
  · simp [BitVec.getElem_eq_testBit_toNat, BitVec.getLsbD]
  · rw [Nat.add_sub_cancel' (by omega)]; simp [BitVec.getElem_eq_testBit_toNat, BitVec.getLsbD]

/-- A byte outside the `n` addresses from `a` on is untouched by a write of `n` bytes there (R36). -/
theorem read_writeBytes_of_ne (m : Memory) (a : Nat) (bs : List Byte) (c : Nat)
    (h : ∀ k < bs.length, c % 4096 ≠ (a + k) % 4096) : (m.writeBytes a bs).read c = m.read c := by
  induction bs generalizing m a with
  | nil => rfl
  | cons b bs ih =>
    rw [writeBytes, ih, read_write]
    · have := h 0 (by simp)
      simp_all
    · intro k hk
      have := h (k + 1) (by simpa using hk)
      rwa [show a + 1 + k = a + (k + 1) by omega]

/-- Byte `k` of a write of at most 4096 bytes is read back `k` places on (R36). -/
theorem read_writeBytes (m : Memory) (a : Nat) (bs : List Byte) (k : Nat) (hk : k < bs.length)
    (hlen : bs.length ≤ 4096) : (m.writeBytes a bs).read (a + k) = bs[k] := by
  induction bs generalizing m a k with
  | nil => simp at hk
  | cons b bs ih =>
    simp only [List.length_cons] at hk hlen
    cases k with
    | zero =>
      rw [writeBytes, read_writeBytes_of_ne]
      · simp
      · intro j hj; omega
    | succ k =>
      rw [writeBytes, show a + (k + 1) = a + 1 + k by omega, ih _ _ _ (by omega) (by omega)]
      simp

/-- Consecutive reads: how many bytes there are (R36). -/
@[simp] theorem length_readBytes (m : Memory) (a n : Nat) : (m.readBytes a n).length = n := by
  induction n generalizing a with
  | zero => rfl
  | succ n ih => simp [readBytes, ih]

/-- Consecutive reads: byte `k` is the byte `k` places on (R36). -/
@[simp] theorem getElem_readBytes (m : Memory) (a n k : Nat) (h : k < (m.readBytes a n).length) :
    (m.readBytes a n)[k] = m.read (a + k) := by
  induction n generalizing a k with
  | zero => simp at h
  | succ n ih =>
    cases k with
    | zero => simp [readBytes]
    | succ k => simp only [readBytes, List.getElem_cons_succ, ih]; congr 1; omega

/-! ## The canonical form -/

theorem mem_enlist {cs : List Host.Cell} {a : Nat} {b : Byte} {c : Host.Cell} :
    c ∈ cellsEnlist cs a b ↔ c = (a, b) ∨ c ∈ cs := by
  induction cs with
  | nil => simp [cellsEnlist]
  | cons e rest ih =>
    by_cases h : a < e.1
    · simp [cellsEnlist, h]
    · simp [cellsEnlist, h, ih]; tauto

theorem pairwise_enlist {cs : List Host.Cell} (h : cs.Pairwise fun c d => c.1 < d.1) {a : Nat} (hna : ∀ e ∈ cs, e.1 ≠ a)
    (b : Byte) : (cellsEnlist cs a b).Pairwise fun c d => c.1 < d.1 := by
  induction cs with
  | nil => simp [cellsEnlist]
  | cons e rest ih =>
    rw [List.pairwise_cons] at h
    by_cases hlt : a < e.1
    · simp only [cellsEnlist, hlt, if_true]
      refine List.pairwise_cons.mpr ⟨fun c hc => ?_, List.pairwise_cons.mpr h⟩
      rcases List.mem_cons.mp hc with rfl | hc
      · exact hlt
      · exact lt_trans hlt (h.1 c hc)
    · simp only [cellsEnlist, hlt, if_false]
      refine List.pairwise_cons.mpr ⟨fun c hc => ?_, ih h.2 fun c hc => hna c (by simp [hc])⟩
      rcases mem_enlist.mp hc with rfl | hc
      · have := hna e (by simp); simp only; omega
      · exact h.1 c hc

/-- Setting an in-range byte keeps the canonical form. -/
theorem wf_setByte {m : Memory} (h : m.wf) {a : Nat} (ha : a < 4096) (b : Byte) : (m.setByte a b).wf := by
  simp only [wf, setByte]
  split
  · exact ⟨h.1.filter _, fun c hc => h.2 c (List.mem_of_mem_filter hc)⟩
  · rename_i hb
    refine ⟨pairwise_enlist (h.1.filter _) (not_mem_unlist _ a) b, fun c hc => ?_⟩
    rcases mem_enlist.mp hc with rfl | hc
    · exact ⟨by simpa using ha, hb⟩
    · exact h.2 c (List.mem_of_mem_filter hc)

/-- A write keeps the canonical form. -/
theorem wf_write {m : Memory} (h : m.wf) (a : Nat) (b : Byte) : (m.write a b).wf :=
  wf_setByte h (Nat.mod_lt _ (by decide)) b

/-- A two-byte write keeps the canonical form. -/
theorem wf_write2 {m : Memory} (h : m.wf) (a : Nat) (w : BitVec 16) : (m.write2 a w).wf :=
  wf_write (wf_write h _ _) _ _

/-- A write of several bytes keeps the canonical form. -/
theorem wf_writeBytes {m : Memory} (h : m.wf) (a : Nat) (bs : List Byte) : (m.writeBytes a bs).wf := by
  induction bs generalizing m a with
  | nil => exact h
  | cons b bs ih => exact ih (wf_write h a b) _

/-- Memory with nothing listed is in canonical form. -/
theorem wf_cleared (m : Memory) : m.cleared.wf := ⟨List.Pairwise.nil, by simp [cleared]⟩

/-- The memory of the state after reset is in canonical form. -/
theorem wf_reset : State.reset.mem.wf := wf_cleared ⟨defaultFont, []⟩

end Sys2Proof.Machine.Memory
end

