-- ==== Sys2Proof/Laws/State.lean ====
section
/-! SUPPORT. What each field of the state is after each named update: one lemma per field per update, so that no proof unfolds
a record update. -/

namespace Sys2Proof.Machine.State

@[simp] theorem v_setReg (s : State) (x : Reg) (b : Byte) : (s.setReg x b).v = s.v.set x.val b x.isLt := rfl
@[simp] theorem i_setReg (s : State) (x : Reg) (b : Byte) : (s.setReg x b).i = s.i := rfl
@[simp] theorem pc_setReg (s : State) (x : Reg) (b : Byte) : (s.setReg x b).pc = s.pc := rfl
@[simp] theorem sp_setReg (s : State) (x : Reg) (b : Byte) : (s.setReg x b).sp = s.sp := rfl
@[simp] theorem dt_setReg (s : State) (x : Reg) (b : Byte) : (s.setReg x b).dt = s.dt := rfl
@[simp] theorem st_setReg (s : State) (x : Reg) (b : Byte) : (s.setReg x b).st = s.st := rfl
@[simp] theorem fault_setReg (s : State) (x : Reg) (b : Byte) : (s.setReg x b).fault = s.fault := rfl
@[simp] theorem tickAcc_setReg (s : State) (x : Reg) (b : Byte) : (s.setReg x b).tickAcc = s.tickAcc := rfl
@[simp] theorem mem_setReg (s : State) (x : Reg) (b : Byte) : (s.setReg x b).mem = s.mem := rfl
@[simp] theorem disp_setReg (s : State) (x : Reg) (b : Byte) : (s.setReg x b).disp = s.disp := rfl
@[simp] theorem keys_setReg (s : State) (x : Reg) (b : Byte) : (s.setReg x b).keys = s.keys := rfl
@[simp] theorem randomIn_setReg (s : State) (x : Reg) (b : Byte) : (s.setReg x b).randomIn = s.randomIn := rfl
@[simp] theorem draws_setReg (s : State) (x : Reg) (b : Byte) : (s.setReg x b).draws = s.draws := rfl
@[simp] theorem schedule_setReg (s : State) (x : Reg) (b : Byte) : (s.setReg x b).schedule = s.schedule := rfl
@[simp] theorem frameLeft_setReg (s : State) (x : Reg) (b : Byte) : (s.setReg x b).frameLeft = s.frameLeft := rfl
@[simp] theorem presented_setReg (s : State) (x : Reg) (b : Byte) : (s.setReg x b).presented = s.presented := rfl
@[simp] theorem params_setReg (s : State) (x : Reg) (b : Byte) : (s.setReg x b).params = s.params := rfl

@[simp] theorem v_setRegs (s : State) (w : Vector Byte 16) : (s.setRegs w).v = w := rfl
@[simp] theorem i_setRegs (s : State) (w : Vector Byte 16) : (s.setRegs w).i = s.i := rfl
@[simp] theorem pc_setRegs (s : State) (w : Vector Byte 16) : (s.setRegs w).pc = s.pc := rfl
@[simp] theorem sp_setRegs (s : State) (w : Vector Byte 16) : (s.setRegs w).sp = s.sp := rfl
@[simp] theorem dt_setRegs (s : State) (w : Vector Byte 16) : (s.setRegs w).dt = s.dt := rfl
@[simp] theorem st_setRegs (s : State) (w : Vector Byte 16) : (s.setRegs w).st = s.st := rfl
@[simp] theorem fault_setRegs (s : State) (w : Vector Byte 16) : (s.setRegs w).fault = s.fault := rfl
@[simp] theorem tickAcc_setRegs (s : State) (w : Vector Byte 16) : (s.setRegs w).tickAcc = s.tickAcc := rfl
@[simp] theorem mem_setRegs (s : State) (w : Vector Byte 16) : (s.setRegs w).mem = s.mem := rfl
@[simp] theorem disp_setRegs (s : State) (w : Vector Byte 16) : (s.setRegs w).disp = s.disp := rfl
@[simp] theorem keys_setRegs (s : State) (w : Vector Byte 16) : (s.setRegs w).keys = s.keys := rfl
@[simp] theorem randomIn_setRegs (s : State) (w : Vector Byte 16) : (s.setRegs w).randomIn = s.randomIn := rfl
@[simp] theorem draws_setRegs (s : State) (w : Vector Byte 16) : (s.setRegs w).draws = s.draws := rfl
@[simp] theorem schedule_setRegs (s : State) (w : Vector Byte 16) : (s.setRegs w).schedule = s.schedule := rfl
@[simp] theorem frameLeft_setRegs (s : State) (w : Vector Byte 16) : (s.setRegs w).frameLeft = s.frameLeft := rfl
@[simp] theorem presented_setRegs (s : State) (w : Vector Byte 16) : (s.setRegs w).presented = s.presented := rfl
@[simp] theorem params_setRegs (s : State) (w : Vector Byte 16) : (s.setRegs w).params = s.params := rfl
@[simp] theorem reg_setRegs (s : State) (w : Vector Byte 16) (r : Reg) : (s.setRegs w).reg r = w.get r := rfl

@[simp] theorem v_setI (s : State) (a : Addr) : (s.setI a).v = s.v := rfl
@[simp] theorem i_setI (s : State) (a : Addr) : (s.setI a).i = a := rfl
@[simp] theorem pc_setI (s : State) (a : Addr) : (s.setI a).pc = s.pc := rfl
@[simp] theorem sp_setI (s : State) (a : Addr) : (s.setI a).sp = s.sp := rfl
@[simp] theorem dt_setI (s : State) (a : Addr) : (s.setI a).dt = s.dt := rfl
@[simp] theorem st_setI (s : State) (a : Addr) : (s.setI a).st = s.st := rfl
@[simp] theorem fault_setI (s : State) (a : Addr) : (s.setI a).fault = s.fault := rfl
@[simp] theorem tickAcc_setI (s : State) (a : Addr) : (s.setI a).tickAcc = s.tickAcc := rfl
@[simp] theorem mem_setI (s : State) (a : Addr) : (s.setI a).mem = s.mem := rfl
@[simp] theorem disp_setI (s : State) (a : Addr) : (s.setI a).disp = s.disp := rfl
@[simp] theorem keys_setI (s : State) (a : Addr) : (s.setI a).keys = s.keys := rfl
@[simp] theorem randomIn_setI (s : State) (a : Addr) : (s.setI a).randomIn = s.randomIn := rfl
@[simp] theorem draws_setI (s : State) (a : Addr) : (s.setI a).draws = s.draws := rfl
@[simp] theorem schedule_setI (s : State) (a : Addr) : (s.setI a).schedule = s.schedule := rfl
@[simp] theorem frameLeft_setI (s : State) (a : Addr) : (s.setI a).frameLeft = s.frameLeft := rfl
@[simp] theorem presented_setI (s : State) (a : Addr) : (s.setI a).presented = s.presented := rfl
@[simp] theorem params_setI (s : State) (a : Addr) : (s.setI a).params = s.params := rfl
@[simp] theorem reg_setI (s : State) (a : Addr) (r : Reg) : (s.setI a).reg r = s.reg r := rfl

@[simp] theorem v_setPc (s : State) (a : Addr) : (s.setPc a).v = s.v := rfl
@[simp] theorem i_setPc (s : State) (a : Addr) : (s.setPc a).i = s.i := rfl
@[simp] theorem pc_setPc (s : State) (a : Addr) : (s.setPc a).pc = a := rfl
@[simp] theorem sp_setPc (s : State) (a : Addr) : (s.setPc a).sp = s.sp := rfl
@[simp] theorem dt_setPc (s : State) (a : Addr) : (s.setPc a).dt = s.dt := rfl
@[simp] theorem st_setPc (s : State) (a : Addr) : (s.setPc a).st = s.st := rfl
@[simp] theorem fault_setPc (s : State) (a : Addr) : (s.setPc a).fault = s.fault := rfl
@[simp] theorem tickAcc_setPc (s : State) (a : Addr) : (s.setPc a).tickAcc = s.tickAcc := rfl
@[simp] theorem mem_setPc (s : State) (a : Addr) : (s.setPc a).mem = s.mem := rfl
@[simp] theorem disp_setPc (s : State) (a : Addr) : (s.setPc a).disp = s.disp := rfl
@[simp] theorem keys_setPc (s : State) (a : Addr) : (s.setPc a).keys = s.keys := rfl
@[simp] theorem randomIn_setPc (s : State) (a : Addr) : (s.setPc a).randomIn = s.randomIn := rfl
@[simp] theorem draws_setPc (s : State) (a : Addr) : (s.setPc a).draws = s.draws := rfl
@[simp] theorem schedule_setPc (s : State) (a : Addr) : (s.setPc a).schedule = s.schedule := rfl
@[simp] theorem frameLeft_setPc (s : State) (a : Addr) : (s.setPc a).frameLeft = s.frameLeft := rfl
@[simp] theorem presented_setPc (s : State) (a : Addr) : (s.setPc a).presented = s.presented := rfl
@[simp] theorem params_setPc (s : State) (a : Addr) : (s.setPc a).params = s.params := rfl
@[simp] theorem reg_setPc (s : State) (a : Addr) (r : Reg) : (s.setPc a).reg r = s.reg r := rfl

@[simp] theorem v_setSp (s : State) (k : BitVec 4) : (s.setSp k).v = s.v := rfl
@[simp] theorem i_setSp (s : State) (k : BitVec 4) : (s.setSp k).i = s.i := rfl
@[simp] theorem pc_setSp (s : State) (k : BitVec 4) : (s.setSp k).pc = s.pc := rfl
@[simp] theorem sp_setSp (s : State) (k : BitVec 4) : (s.setSp k).sp = k := rfl
@[simp] theorem dt_setSp (s : State) (k : BitVec 4) : (s.setSp k).dt = s.dt := rfl
@[simp] theorem st_setSp (s : State) (k : BitVec 4) : (s.setSp k).st = s.st := rfl
@[simp] theorem fault_setSp (s : State) (k : BitVec 4) : (s.setSp k).fault = s.fault := rfl
@[simp] theorem tickAcc_setSp (s : State) (k : BitVec 4) : (s.setSp k).tickAcc = s.tickAcc := rfl
@[simp] theorem mem_setSp (s : State) (k : BitVec 4) : (s.setSp k).mem = s.mem := rfl
@[simp] theorem disp_setSp (s : State) (k : BitVec 4) : (s.setSp k).disp = s.disp := rfl
@[simp] theorem keys_setSp (s : State) (k : BitVec 4) : (s.setSp k).keys = s.keys := rfl
@[simp] theorem randomIn_setSp (s : State) (k : BitVec 4) : (s.setSp k).randomIn = s.randomIn := rfl
@[simp] theorem draws_setSp (s : State) (k : BitVec 4) : (s.setSp k).draws = s.draws := rfl
@[simp] theorem schedule_setSp (s : State) (k : BitVec 4) : (s.setSp k).schedule = s.schedule := rfl
@[simp] theorem frameLeft_setSp (s : State) (k : BitVec 4) : (s.setSp k).frameLeft = s.frameLeft := rfl
@[simp] theorem presented_setSp (s : State) (k : BitVec 4) : (s.setSp k).presented = s.presented := rfl
@[simp] theorem params_setSp (s : State) (k : BitVec 4) : (s.setSp k).params = s.params := rfl
@[simp] theorem reg_setSp (s : State) (k : BitVec 4) (r : Reg) : (s.setSp k).reg r = s.reg r := rfl

@[simp] theorem v_setDt (s : State) (b : Byte) : (s.setDt b).v = s.v := rfl
@[simp] theorem i_setDt (s : State) (b : Byte) : (s.setDt b).i = s.i := rfl
@[simp] theorem pc_setDt (s : State) (b : Byte) : (s.setDt b).pc = s.pc := rfl
@[simp] theorem sp_setDt (s : State) (b : Byte) : (s.setDt b).sp = s.sp := rfl
@[simp] theorem dt_setDt (s : State) (b : Byte) : (s.setDt b).dt = b := rfl
@[simp] theorem st_setDt (s : State) (b : Byte) : (s.setDt b).st = s.st := rfl
@[simp] theorem fault_setDt (s : State) (b : Byte) : (s.setDt b).fault = s.fault := rfl
@[simp] theorem tickAcc_setDt (s : State) (b : Byte) : (s.setDt b).tickAcc = s.tickAcc := rfl
@[simp] theorem mem_setDt (s : State) (b : Byte) : (s.setDt b).mem = s.mem := rfl
@[simp] theorem disp_setDt (s : State) (b : Byte) : (s.setDt b).disp = s.disp := rfl
@[simp] theorem keys_setDt (s : State) (b : Byte) : (s.setDt b).keys = s.keys := rfl
@[simp] theorem randomIn_setDt (s : State) (b : Byte) : (s.setDt b).randomIn = s.randomIn := rfl
@[simp] theorem draws_setDt (s : State) (b : Byte) : (s.setDt b).draws = s.draws := rfl
@[simp] theorem schedule_setDt (s : State) (b : Byte) : (s.setDt b).schedule = s.schedule := rfl
@[simp] theorem frameLeft_setDt (s : State) (b : Byte) : (s.setDt b).frameLeft = s.frameLeft := rfl
@[simp] theorem presented_setDt (s : State) (b : Byte) : (s.setDt b).presented = s.presented := rfl
@[simp] theorem params_setDt (s : State) (b : Byte) : (s.setDt b).params = s.params := rfl
@[simp] theorem reg_setDt (s : State) (b : Byte) (r : Reg) : (s.setDt b).reg r = s.reg r := rfl

@[simp] theorem v_setSt (s : State) (b : Byte) : (s.setSt b).v = s.v := rfl
@[simp] theorem i_setSt (s : State) (b : Byte) : (s.setSt b).i = s.i := rfl
@[simp] theorem pc_setSt (s : State) (b : Byte) : (s.setSt b).pc = s.pc := rfl
@[simp] theorem sp_setSt (s : State) (b : Byte) : (s.setSt b).sp = s.sp := rfl
@[simp] theorem dt_setSt (s : State) (b : Byte) : (s.setSt b).dt = s.dt := rfl
@[simp] theorem st_setSt (s : State) (b : Byte) : (s.setSt b).st = b := rfl
@[simp] theorem fault_setSt (s : State) (b : Byte) : (s.setSt b).fault = s.fault := rfl
@[simp] theorem tickAcc_setSt (s : State) (b : Byte) : (s.setSt b).tickAcc = s.tickAcc := rfl
@[simp] theorem mem_setSt (s : State) (b : Byte) : (s.setSt b).mem = s.mem := rfl
@[simp] theorem disp_setSt (s : State) (b : Byte) : (s.setSt b).disp = s.disp := rfl
@[simp] theorem keys_setSt (s : State) (b : Byte) : (s.setSt b).keys = s.keys := rfl
@[simp] theorem randomIn_setSt (s : State) (b : Byte) : (s.setSt b).randomIn = s.randomIn := rfl
@[simp] theorem draws_setSt (s : State) (b : Byte) : (s.setSt b).draws = s.draws := rfl
@[simp] theorem schedule_setSt (s : State) (b : Byte) : (s.setSt b).schedule = s.schedule := rfl
@[simp] theorem frameLeft_setSt (s : State) (b : Byte) : (s.setSt b).frameLeft = s.frameLeft := rfl
@[simp] theorem presented_setSt (s : State) (b : Byte) : (s.setSt b).presented = s.presented := rfl
@[simp] theorem params_setSt (s : State) (b : Byte) : (s.setSt b).params = s.params := rfl
@[simp] theorem reg_setSt (s : State) (b : Byte) (r : Reg) : (s.setSt b).reg r = s.reg r := rfl

@[simp] theorem v_setMem (s : State) (m : Memory) : (s.setMem m).v = s.v := rfl
@[simp] theorem i_setMem (s : State) (m : Memory) : (s.setMem m).i = s.i := rfl
@[simp] theorem pc_setMem (s : State) (m : Memory) : (s.setMem m).pc = s.pc := rfl
@[simp] theorem sp_setMem (s : State) (m : Memory) : (s.setMem m).sp = s.sp := rfl
@[simp] theorem dt_setMem (s : State) (m : Memory) : (s.setMem m).dt = s.dt := rfl
@[simp] theorem st_setMem (s : State) (m : Memory) : (s.setMem m).st = s.st := rfl
@[simp] theorem fault_setMem (s : State) (m : Memory) : (s.setMem m).fault = s.fault := rfl
@[simp] theorem tickAcc_setMem (s : State) (m : Memory) : (s.setMem m).tickAcc = s.tickAcc := rfl
@[simp] theorem mem_setMem (s : State) (m : Memory) : (s.setMem m).mem = m := rfl
@[simp] theorem disp_setMem (s : State) (m : Memory) : (s.setMem m).disp = s.disp := rfl
@[simp] theorem keys_setMem (s : State) (m : Memory) : (s.setMem m).keys = s.keys := rfl
@[simp] theorem randomIn_setMem (s : State) (m : Memory) : (s.setMem m).randomIn = s.randomIn := rfl
@[simp] theorem draws_setMem (s : State) (m : Memory) : (s.setMem m).draws = s.draws := rfl
@[simp] theorem schedule_setMem (s : State) (m : Memory) : (s.setMem m).schedule = s.schedule := rfl
@[simp] theorem frameLeft_setMem (s : State) (m : Memory) : (s.setMem m).frameLeft = s.frameLeft := rfl
@[simp] theorem presented_setMem (s : State) (m : Memory) : (s.setMem m).presented = s.presented := rfl
@[simp] theorem params_setMem (s : State) (m : Memory) : (s.setMem m).params = s.params := rfl
@[simp] theorem reg_setMem (s : State) (m : Memory) (r : Reg) : (s.setMem m).reg r = s.reg r := rfl

@[simp] theorem v_setDisp (s : State) (d : Display) : (s.setDisp d).v = s.v := rfl
@[simp] theorem i_setDisp (s : State) (d : Display) : (s.setDisp d).i = s.i := rfl
@[simp] theorem pc_setDisp (s : State) (d : Display) : (s.setDisp d).pc = s.pc := rfl
@[simp] theorem sp_setDisp (s : State) (d : Display) : (s.setDisp d).sp = s.sp := rfl
@[simp] theorem dt_setDisp (s : State) (d : Display) : (s.setDisp d).dt = s.dt := rfl
@[simp] theorem st_setDisp (s : State) (d : Display) : (s.setDisp d).st = s.st := rfl
@[simp] theorem fault_setDisp (s : State) (d : Display) : (s.setDisp d).fault = s.fault := rfl
@[simp] theorem tickAcc_setDisp (s : State) (d : Display) : (s.setDisp d).tickAcc = s.tickAcc := rfl
@[simp] theorem mem_setDisp (s : State) (d : Display) : (s.setDisp d).mem = s.mem := rfl
@[simp] theorem disp_setDisp (s : State) (d : Display) : (s.setDisp d).disp = d := rfl
@[simp] theorem keys_setDisp (s : State) (d : Display) : (s.setDisp d).keys = s.keys := rfl
@[simp] theorem randomIn_setDisp (s : State) (d : Display) : (s.setDisp d).randomIn = s.randomIn := rfl
@[simp] theorem draws_setDisp (s : State) (d : Display) : (s.setDisp d).draws = s.draws := rfl
@[simp] theorem schedule_setDisp (s : State) (d : Display) : (s.setDisp d).schedule = s.schedule := rfl
@[simp] theorem frameLeft_setDisp (s : State) (d : Display) : (s.setDisp d).frameLeft = s.frameLeft := rfl
@[simp] theorem presented_setDisp (s : State) (d : Display) : (s.setDisp d).presented = s.presented := rfl
@[simp] theorem params_setDisp (s : State) (d : Display) : (s.setDisp d).params = s.params := rfl
@[simp] theorem reg_setDisp (s : State) (d : Display) (r : Reg) : (s.setDisp d).reg r = s.reg r := rfl

@[simp] theorem v_setKeys (s : State) (ks : Keys) : (s.setKeys ks).v = s.v := rfl
@[simp] theorem i_setKeys (s : State) (ks : Keys) : (s.setKeys ks).i = s.i := rfl
@[simp] theorem pc_setKeys (s : State) (ks : Keys) : (s.setKeys ks).pc = s.pc := rfl
@[simp] theorem sp_setKeys (s : State) (ks : Keys) : (s.setKeys ks).sp = s.sp := rfl
@[simp] theorem dt_setKeys (s : State) (ks : Keys) : (s.setKeys ks).dt = s.dt := rfl
@[simp] theorem st_setKeys (s : State) (ks : Keys) : (s.setKeys ks).st = s.st := rfl
@[simp] theorem fault_setKeys (s : State) (ks : Keys) : (s.setKeys ks).fault = s.fault := rfl
@[simp] theorem tickAcc_setKeys (s : State) (ks : Keys) : (s.setKeys ks).tickAcc = s.tickAcc := rfl
@[simp] theorem mem_setKeys (s : State) (ks : Keys) : (s.setKeys ks).mem = s.mem := rfl
@[simp] theorem disp_setKeys (s : State) (ks : Keys) : (s.setKeys ks).disp = s.disp := rfl
@[simp] theorem keys_setKeys (s : State) (ks : Keys) : (s.setKeys ks).keys = ks := rfl
@[simp] theorem randomIn_setKeys (s : State) (ks : Keys) : (s.setKeys ks).randomIn = s.randomIn := rfl
@[simp] theorem draws_setKeys (s : State) (ks : Keys) : (s.setKeys ks).draws = s.draws := rfl
@[simp] theorem schedule_setKeys (s : State) (ks : Keys) : (s.setKeys ks).schedule = s.schedule := rfl
@[simp] theorem frameLeft_setKeys (s : State) (ks : Keys) : (s.setKeys ks).frameLeft = s.frameLeft := rfl
@[simp] theorem presented_setKeys (s : State) (ks : Keys) : (s.setKeys ks).presented = s.presented := rfl
@[simp] theorem params_setKeys (s : State) (ks : Keys) : (s.setKeys ks).params = s.params := rfl
@[simp] theorem reg_setKeys (s : State) (ks : Keys) (r : Reg) : (s.setKeys ks).reg r = s.reg r := rfl

@[simp] theorem v_setFault (s : State) (f : Option UnknownOpcode) : (s.setFault f).v = s.v := rfl
@[simp] theorem i_setFault (s : State) (f : Option UnknownOpcode) : (s.setFault f).i = s.i := rfl
@[simp] theorem pc_setFault (s : State) (f : Option UnknownOpcode) : (s.setFault f).pc = s.pc := rfl
@[simp] theorem sp_setFault (s : State) (f : Option UnknownOpcode) : (s.setFault f).sp = s.sp := rfl
@[simp] theorem dt_setFault (s : State) (f : Option UnknownOpcode) : (s.setFault f).dt = s.dt := rfl
@[simp] theorem st_setFault (s : State) (f : Option UnknownOpcode) : (s.setFault f).st = s.st := rfl
@[simp] theorem fault_setFault (s : State) (f : Option UnknownOpcode) : (s.setFault f).fault = f := rfl
@[simp] theorem tickAcc_setFault (s : State) (f : Option UnknownOpcode) : (s.setFault f).tickAcc = s.tickAcc := rfl
@[simp] theorem mem_setFault (s : State) (f : Option UnknownOpcode) : (s.setFault f).mem = s.mem := rfl
@[simp] theorem disp_setFault (s : State) (f : Option UnknownOpcode) : (s.setFault f).disp = s.disp := rfl
@[simp] theorem keys_setFault (s : State) (f : Option UnknownOpcode) : (s.setFault f).keys = s.keys := rfl
@[simp] theorem randomIn_setFault (s : State) (f : Option UnknownOpcode) : (s.setFault f).randomIn = s.randomIn := rfl
@[simp] theorem draws_setFault (s : State) (f : Option UnknownOpcode) : (s.setFault f).draws = s.draws := rfl
@[simp] theorem schedule_setFault (s : State) (f : Option UnknownOpcode) : (s.setFault f).schedule = s.schedule := rfl
@[simp] theorem frameLeft_setFault (s : State) (f : Option UnknownOpcode) : (s.setFault f).frameLeft = s.frameLeft := rfl
@[simp] theorem presented_setFault (s : State) (f : Option UnknownOpcode) : (s.setFault f).presented = s.presented := rfl
@[simp] theorem params_setFault (s : State) (f : Option UnknownOpcode) : (s.setFault f).params = s.params := rfl
@[simp] theorem reg_setFault (s : State) (f : Option UnknownOpcode) (r : Reg) : (s.setFault f).reg r = s.reg r := rfl

@[simp] theorem v_setTickAcc (s : State) (t : Rat) : (s.setTickAcc t).v = s.v := rfl
@[simp] theorem i_setTickAcc (s : State) (t : Rat) : (s.setTickAcc t).i = s.i := rfl
@[simp] theorem pc_setTickAcc (s : State) (t : Rat) : (s.setTickAcc t).pc = s.pc := rfl
@[simp] theorem sp_setTickAcc (s : State) (t : Rat) : (s.setTickAcc t).sp = s.sp := rfl
@[simp] theorem dt_setTickAcc (s : State) (t : Rat) : (s.setTickAcc t).dt = s.dt := rfl
@[simp] theorem st_setTickAcc (s : State) (t : Rat) : (s.setTickAcc t).st = s.st := rfl
@[simp] theorem fault_setTickAcc (s : State) (t : Rat) : (s.setTickAcc t).fault = s.fault := rfl
@[simp] theorem tickAcc_setTickAcc (s : State) (t : Rat) : (s.setTickAcc t).tickAcc = t := rfl
@[simp] theorem mem_setTickAcc (s : State) (t : Rat) : (s.setTickAcc t).mem = s.mem := rfl
@[simp] theorem disp_setTickAcc (s : State) (t : Rat) : (s.setTickAcc t).disp = s.disp := rfl
@[simp] theorem keys_setTickAcc (s : State) (t : Rat) : (s.setTickAcc t).keys = s.keys := rfl
@[simp] theorem randomIn_setTickAcc (s : State) (t : Rat) : (s.setTickAcc t).randomIn = s.randomIn := rfl
@[simp] theorem draws_setTickAcc (s : State) (t : Rat) : (s.setTickAcc t).draws = s.draws := rfl
@[simp] theorem schedule_setTickAcc (s : State) (t : Rat) : (s.setTickAcc t).schedule = s.schedule := rfl
@[simp] theorem frameLeft_setTickAcc (s : State) (t : Rat) : (s.setTickAcc t).frameLeft = s.frameLeft := rfl
@[simp] theorem presented_setTickAcc (s : State) (t : Rat) : (s.setTickAcc t).presented = s.presented := rfl
@[simp] theorem params_setTickAcc (s : State) (t : Rat) : (s.setTickAcc t).params = s.params := rfl
@[simp] theorem reg_setTickAcc (s : State) (t : Rat) (r : Reg) : (s.setTickAcc t).reg r = s.reg r := rfl

@[simp] theorem v_setSchedule (s : State) (es : List Event) : (s.setSchedule es).v = s.v := rfl
@[simp] theorem i_setSchedule (s : State) (es : List Event) : (s.setSchedule es).i = s.i := rfl
@[simp] theorem pc_setSchedule (s : State) (es : List Event) : (s.setSchedule es).pc = s.pc := rfl
@[simp] theorem sp_setSchedule (s : State) (es : List Event) : (s.setSchedule es).sp = s.sp := rfl
@[simp] theorem dt_setSchedule (s : State) (es : List Event) : (s.setSchedule es).dt = s.dt := rfl
@[simp] theorem st_setSchedule (s : State) (es : List Event) : (s.setSchedule es).st = s.st := rfl
@[simp] theorem fault_setSchedule (s : State) (es : List Event) : (s.setSchedule es).fault = s.fault := rfl
@[simp] theorem tickAcc_setSchedule (s : State) (es : List Event) : (s.setSchedule es).tickAcc = s.tickAcc := rfl
@[simp] theorem mem_setSchedule (s : State) (es : List Event) : (s.setSchedule es).mem = s.mem := rfl
@[simp] theorem disp_setSchedule (s : State) (es : List Event) : (s.setSchedule es).disp = s.disp := rfl
@[simp] theorem keys_setSchedule (s : State) (es : List Event) : (s.setSchedule es).keys = s.keys := rfl
@[simp] theorem randomIn_setSchedule (s : State) (es : List Event) : (s.setSchedule es).randomIn = s.randomIn := rfl
@[simp] theorem draws_setSchedule (s : State) (es : List Event) : (s.setSchedule es).draws = s.draws := rfl
@[simp] theorem schedule_setSchedule (s : State) (es : List Event) : (s.setSchedule es).schedule = es := rfl
@[simp] theorem frameLeft_setSchedule (s : State) (es : List Event) : (s.setSchedule es).frameLeft = s.frameLeft := rfl
@[simp] theorem presented_setSchedule (s : State) (es : List Event) : (s.setSchedule es).presented = s.presented := rfl
@[simp] theorem params_setSchedule (s : State) (es : List Event) : (s.setSchedule es).params = s.params := rfl
@[simp] theorem reg_setSchedule (s : State) (es : List Event) (r : Reg) : (s.setSchedule es).reg r = s.reg r := rfl

@[simp] theorem v_setFrameLeft (s : State) (l : Option (List (Option Keys))) : (s.setFrameLeft l).v = s.v := rfl
@[simp] theorem i_setFrameLeft (s : State) (l : Option (List (Option Keys))) : (s.setFrameLeft l).i = s.i := rfl
@[simp] theorem pc_setFrameLeft (s : State) (l : Option (List (Option Keys))) : (s.setFrameLeft l).pc = s.pc := rfl
@[simp] theorem sp_setFrameLeft (s : State) (l : Option (List (Option Keys))) : (s.setFrameLeft l).sp = s.sp := rfl
@[simp] theorem dt_setFrameLeft (s : State) (l : Option (List (Option Keys))) : (s.setFrameLeft l).dt = s.dt := rfl
@[simp] theorem st_setFrameLeft (s : State) (l : Option (List (Option Keys))) : (s.setFrameLeft l).st = s.st := rfl
@[simp] theorem fault_setFrameLeft (s : State) (l : Option (List (Option Keys))) : (s.setFrameLeft l).fault = s.fault := rfl
@[simp] theorem tickAcc_setFrameLeft (s : State) (l : Option (List (Option Keys))) : (s.setFrameLeft l).tickAcc = s.tickAcc := rfl
@[simp] theorem mem_setFrameLeft (s : State) (l : Option (List (Option Keys))) : (s.setFrameLeft l).mem = s.mem := rfl
@[simp] theorem disp_setFrameLeft (s : State) (l : Option (List (Option Keys))) : (s.setFrameLeft l).disp = s.disp := rfl
@[simp] theorem keys_setFrameLeft (s : State) (l : Option (List (Option Keys))) : (s.setFrameLeft l).keys = s.keys := rfl
@[simp] theorem randomIn_setFrameLeft (s : State) (l : Option (List (Option Keys))) : (s.setFrameLeft l).randomIn = s.randomIn := rfl
@[simp] theorem draws_setFrameLeft (s : State) (l : Option (List (Option Keys))) : (s.setFrameLeft l).draws = s.draws := rfl
@[simp] theorem schedule_setFrameLeft (s : State) (l : Option (List (Option Keys))) : (s.setFrameLeft l).schedule = s.schedule := rfl
@[simp] theorem frameLeft_setFrameLeft (s : State) (l : Option (List (Option Keys))) : (s.setFrameLeft l).frameLeft = l := rfl
@[simp] theorem presented_setFrameLeft (s : State) (l : Option (List (Option Keys))) : (s.setFrameLeft l).presented = s.presented := rfl
@[simp] theorem params_setFrameLeft (s : State) (l : Option (List (Option Keys))) : (s.setFrameLeft l).params = s.params := rfl
@[simp] theorem reg_setFrameLeft (s : State) (l : Option (List (Option Keys))) (r : Reg) : (s.setFrameLeft l).reg r = s.reg r := rfl

@[simp] theorem v_setPresented (s : State) (p : Option Presentation) : (s.setPresented p).v = s.v := rfl
@[simp] theorem i_setPresented (s : State) (p : Option Presentation) : (s.setPresented p).i = s.i := rfl
@[simp] theorem pc_setPresented (s : State) (p : Option Presentation) : (s.setPresented p).pc = s.pc := rfl
@[simp] theorem sp_setPresented (s : State) (p : Option Presentation) : (s.setPresented p).sp = s.sp := rfl
@[simp] theorem dt_setPresented (s : State) (p : Option Presentation) : (s.setPresented p).dt = s.dt := rfl
@[simp] theorem st_setPresented (s : State) (p : Option Presentation) : (s.setPresented p).st = s.st := rfl
@[simp] theorem fault_setPresented (s : State) (p : Option Presentation) : (s.setPresented p).fault = s.fault := rfl
@[simp] theorem tickAcc_setPresented (s : State) (p : Option Presentation) : (s.setPresented p).tickAcc = s.tickAcc := rfl
@[simp] theorem mem_setPresented (s : State) (p : Option Presentation) : (s.setPresented p).mem = s.mem := rfl
@[simp] theorem disp_setPresented (s : State) (p : Option Presentation) : (s.setPresented p).disp = s.disp := rfl
@[simp] theorem keys_setPresented (s : State) (p : Option Presentation) : (s.setPresented p).keys = s.keys := rfl
@[simp] theorem randomIn_setPresented (s : State) (p : Option Presentation) : (s.setPresented p).randomIn = s.randomIn := rfl
@[simp] theorem draws_setPresented (s : State) (p : Option Presentation) : (s.setPresented p).draws = s.draws := rfl
@[simp] theorem schedule_setPresented (s : State) (p : Option Presentation) : (s.setPresented p).schedule = s.schedule := rfl
@[simp] theorem frameLeft_setPresented (s : State) (p : Option Presentation) : (s.setPresented p).frameLeft = s.frameLeft := rfl
@[simp] theorem presented_setPresented (s : State) (p : Option Presentation) : (s.setPresented p).presented = p := rfl
@[simp] theorem params_setPresented (s : State) (p : Option Presentation) : (s.setPresented p).params = s.params := rfl
@[simp] theorem reg_setPresented (s : State) (p : Option Presentation) (r : Reg) : (s.setPresented p).reg r = s.reg r := rfl

/-- Reading a register after writing one (R10). -/
@[simp] theorem reg_setReg (s : State) (x : Reg) (b : Byte) (r : Reg) :
    (s.setReg x b).reg r = if r = x then b else s.reg r := by
  simp only [reg, setReg, Vector.get_eq_getElem, Vector.getElem_set, Fin.ext_iff, eq_comm]

/-! Writing a register goes past every other update. -/

theorem setI_setReg (s : State) (x : Reg) (b : Byte) (a : Addr) : (s.setReg x b).setI a = (s.setI a).setReg x b := rfl
theorem setPc_setReg (s : State) (x : Reg) (b : Byte) (a : Addr) : (s.setReg x b).setPc a = (s.setPc a).setReg x b := rfl
theorem setSp_setReg (s : State) (x : Reg) (b : Byte) (k : BitVec 4) : (s.setReg x b).setSp k = (s.setSp k).setReg x b := rfl
theorem setDt_setReg (s : State) (x : Reg) (b c : Byte) : (s.setReg x b).setDt c = (s.setDt c).setReg x b := rfl
theorem setSt_setReg (s : State) (x : Reg) (b c : Byte) : (s.setReg x b).setSt c = (s.setSt c).setReg x b := rfl
theorem setMem_setReg (s : State) (x : Reg) (b : Byte) (m : Memory) : (s.setReg x b).setMem m = (s.setMem m).setReg x b := rfl
theorem setDisp_setReg (s : State) (x : Reg) (b : Byte) (d : Display) : (s.setReg x b).setDisp d = (s.setDisp d).setReg x b := rfl

/-- Writing a register twice keeps the second value. -/
theorem setReg_setReg_same (s : State) (x : Reg) (b c : Byte) : (s.setReg x b).setReg x c = s.setReg x c := by
  simp [setReg]

/-- Two states are equal when all their fields are. -/
theorem ext_fields {s t : State} (hv : s.v = t.v) (hi : s.i = t.i) (hpc : s.pc = t.pc) (hsp : s.sp = t.sp)
    (hdt : s.dt = t.dt) (hst : s.st = t.st) (hf : s.fault = t.fault) (hacc : s.tickAcc = t.tickAcc) (hm : s.mem = t.mem)
    (hd : s.disp = t.disp) (hk : s.keys = t.keys) (hr : s.randomIn = t.randomIn) (hn : s.draws = t.draws)
    (hs : s.schedule = t.schedule) (hl : s.frameLeft = t.frameLeft) (ho : s.presented = t.presented)
    (hp : s.params = t.params) : s = t := by
  cases s; cases t; simp_all

end Sys2Proof.Machine.State
end

