-- ==== Sys2Proof/Laws/Ops.lean ====
section
/-! SUPPORT. One lemma for each shared operation: all it can do, for provers to cite in place of unfolding it. -/

namespace Sys2Proof.Machine.State

/-! ## skip and skipIf (R79) -/

/-- All a skip does: `pc` goes up by 2, modulo 4096 (R79). -/
theorem skip_eq (s : State) : s.skip = s.setPc (s.pc + 2) := rfl

/-- All a conditional skip does: only `pc` may change (R79). -/
theorem skipIf_eq (s : State) (c : Bool) : s.skipIf c = s.setPc (if c then s.pc + 2 else s.pc) := by
  cases c <;> rfl

/-! ## The stack (R70, R72) -/

/-- All a push does: one two-byte write at the slot and `sp` one up (R72). -/
theorem push_eq (s : State) (a : Addr) :
    s.push a = { s with mem := s.mem.write2 (s.stackSlot s.sp) (a.setWidth 16), sp := s.sp + 1 } := rfl

/-- What a return finds where a push left it: the address pushed (R70, R72). -/
theorem poppedAddr_push (s : State) (a : Addr) : (s.push a).poppedAddr = a := by
  have h : (s.push a).sp - 1 = s.sp := by simp [push]
  rw [poppedAddr, h, show (s.push a).stackSlot s.sp = s.stackSlot s.sp from rfl,
    show (s.push a).mem = s.mem.write2 (s.stackSlot s.sp) (a.setWidth 16) from rfl, Memory.read2_write2]
  simp

/-! ## Registers with the flag, and the index (R92, R104) -/

/-- All that writing a result and then the flag does: the flag wins when the result's register is `VF` (R13, R92). -/
theorem reg_setRegFlag (s : State) (x : Reg) (r f : Byte) (k : Reg) :
    (s.setRegFlag x r f).reg k = if k = VF then f else if k = x then r else s.reg k := by
  simp [setRegFlag]

/-- Beside the registers nothing changes when a result and the flag are written (R92). -/
theorem setRegFlag_eq (s : State) (x : Reg) (r f : Byte) : s.setRegFlag x r f = s.setRegs (s.setRegFlag x r f).v := rfl

/-- All the post-increment does: `I` goes up, modulo 4096 (R104). -/
theorem advanceIndex_eq (s : State) (k : Nat) : s.advanceIndex k = s.setI (BitVec.ofNat 12 (s.i.toNat + k)) := rfl

/-- Register `k` after the loads of load-registers (R105). -/
theorem get_regsLoaded (s : State) (x k : Reg) :
    (s.regsLoaded x).get k = if k ≤ x then s.mem.read (s.i.toNat + k.val) else s.reg k := by
  simp [regsLoaded, Vector.get_eq_getElem, indexBase]

/-- How many bytes store-registers stores (R104). -/
theorem length_regsUpTo (s : State) (x : Reg) : (s.regsUpTo x).length = x.val + 1 := by
  have := x.isLt
  simp [regsUpTo, regCount]

/-- Byte `k` of what store-registers stores is `V[k]` (R104). -/
theorem getElem_regsUpTo (s : State) (x : Reg) (k : Nat) (h : k < (s.regsUpTo x).length) (hk : k < 16) :
    (s.regsUpTo x)[k] = s.reg ⟨k, hk⟩ := by
  simp [regsUpTo, reg, Vector.get_eq_getElem]

/-! ## Keys (R120, R121, R152) -/

/-- The key tested is the one that the low nibble names: the register's value modulo 16 (R152). -/
theorem keyDown_eq (s : State) (b : Byte) : s.keyDown b = s.keys.get ⟨b.toNat % 16, Nat.mod_lt _ (Nat.succ_pos _)⟩ := by
  unfold keyDown
  congr 1

/-! ## The random source (R125) -/

/-- All a draw does to the state: it uses up one supplied byte, or counts one free draw. -/
theorem drawDone_cases (s : State) :
    (∃ b rest, s.randomIn = b :: rest ∧ s.drawnByte = b ∧ s.drawDone = { s with randomIn := rest }) ∨
    (s.randomIn = [] ∧ s.drawnByte = Config.randomByte s.draws ∧ s.drawDone = { s with draws := s.draws + 1 }) := by
  cases h : s.randomIn with
  | nil => exact .inr ⟨rfl, by simp [drawnByte, h], by simp [drawDone, h]⟩
  | cons b rest => exact .inl ⟨b, rest, rfl, by simp [drawnByte, h], by simp [drawDone, h]⟩

/-- A draw changes nothing but the random source's own state. -/
theorem drawDone_eq (s : State) : s.drawDone = { s with randomIn := s.drawDone.randomIn, draws := s.drawDone.draws } := by
  rcases s.drawDone_cases with ⟨b, rest, -, -, h⟩ | ⟨-, -, h⟩ <;> rw [h]

/-! ## The exception (R141) -/

/-- All that raising the exception does: the latch is set (R141). -/
theorem raiseUnknownOpcode_eq (s : State) (op : Opcode) (addr : Addr) :
    s.raiseUnknownOpcode op addr = { s with fault := some ⟨op, addr⟩ } := rfl

/-! ## Ticks (R150, R175) -/

/-- A timer counts down to zero and stays there (R150). -/
theorem toNat_countDown (b : Byte) : (countDown b).toNat = b.toNat - 1 := by
  unfold countDown
  split
  · rename_i h
    have : 0 < b.toNat := by simpa [BitVec.lt_def] using h
    rw [BitVec.toNat_sub_of_le (by simp [BitVec.le_def]; omega)]; rfl
  · rename_i h
    have : b.toNat = 0 := by simpa [BitVec.lt_def] using h
    omega

/-- All a tick does (R150). -/
theorem tick_eq (s : State) : s.tick = { s with dt := countDown s.dt, st := countDown s.st } := rfl

/-- Ticks change the timers alone. -/
theorem ticks_eq (s : State) (n : Nat) : s.ticks n = { s with dt := (s.ticks n).dt, st := (s.ticks n).st } := by
  induction n generalizing s with
  | zero => rfl
  | succ n ih => rw [ticks, ih]; rfl

/-- The delay timer after `n` ticks (R150). -/
theorem dt_ticks (s : State) (n : Nat) : (s.ticks n).dt.toNat = s.dt.toNat - n := by
  induction n generalizing s with
  | zero => rfl
  | succ n ih =>
    rw [ticks, ih, show s.tick.dt = countDown s.dt from rfl, toNat_countDown]; omega

/-- The sound timer after `n` ticks (R150). -/
theorem st_ticks (s : State) (n : Nat) : (s.ticks n).st.toNat = s.st.toNat - n := by
  induction n generalizing s with
  | zero => rfl
  | succ n ih =>
    rw [ticks, ih, show s.tick.st = countDown s.st from rfl, toNat_countDown]; omega

/-- Real time turned into ticks changes the timers and the remainder alone (R175). -/
theorem elapse_eq (s : State) (t : Rat) :
    s.elapse t = { s with dt := (s.elapse t).dt, st := (s.elapse t).st, tickAcc := (s.elapse t).tickAcc } := by
  unfold elapse
  simp only [tickAcc_setTickAcc, dt_setTickAcc, st_setTickAcc]
  rw [ticks_eq]; rfl

/-- How many whole periods a time holds, in Mathlib's words (R175). -/
theorem ticksIn_eq (t : Rat) : ticksIn t = ⌊t * 60⌋₊ := rfl

/-! ## Frames (R176) -/

/-- All a key change of a frame does, if there is one: the keys alone (R152). -/
theorem applyInput_eq (s : State) (input : Option Keys) : s.applyInput input = s.setKeys (input.getD s.keys) := by
  cases input <;> rfl

/-- The beginning of a frame, beside the timers and the remainder, owes its steps (R176). -/
theorem beginFrame_eq (s : State) (t : Rat) (inputs : Vector (Option Keys) Config.instrPerFrame) :
    s.beginFrame t inputs = (s.elapse t).setFrameLeft (some inputs.toList) := rfl

/-- All a presentation does: it records what the host is handed (R113). -/
theorem present_eq (s : State) :
    s.present = s.setPresented (some ⟨s.framebuffer, Config.width, Config.height, s.fault⟩) := rfl

/-- Byte `k` of the framebuffer tells whether dot `k` is lit (R113). -/
theorem getElem_framebuffer (s : State) (k : Nat) (hk : k < Config.dots) :
    s.framebuffer[k] = if s.disp.getLsbD k then s.params.fbOn else s.params.fbOff := by
  simp only [framebuffer, Vector.getElem_mk, List.getElem_toArray, List.getElem_map, List.getElem_range]

end Sys2Proof.Machine.State
end

