-- ==== Sys2Proof/Laws/Exec.lean ====
section
/-! SUPPORT. Which meaning runs each instruction (one equation each, so that no proof unfolds the dispatch), in the order of
spec/30_encoding.md R56; and what no instruction changes. -/

namespace Sys2Proof.Machine

@[simp] theorem exec_cls (s : State) : exec .cls s = execCls s := rfl
@[simp] theorem exec_ret (s : State) : exec .ret s = execRet s := rfl
@[simp] theorem exec_jp (nnn : Addr) (s : State) : exec (.jp nnn) s = execJp nnn s := rfl
@[simp] theorem exec_call (nnn : Addr) (s : State) : exec (.call nnn) s = execCall nnn s := rfl
@[simp] theorem exec_seImm (x : Reg) (nn : Byte) (s : State) : exec (.seImm x nn) s = execSeImm x nn s := rfl
@[simp] theorem exec_sneImm (x : Reg) (nn : Byte) (s : State) : exec (.sneImm x nn) s = execSneImm x nn s := rfl
@[simp] theorem exec_seReg (x y : Reg) (s : State) : exec (.seReg x y) s = execSeReg x y s := rfl
@[simp] theorem exec_ldImm (x : Reg) (nn : Byte) (s : State) : exec (.ldImm x nn) s = execLdImm x nn s := rfl
@[simp] theorem exec_addImm (x : Reg) (nn : Byte) (s : State) : exec (.addImm x nn) s = execAddImm x nn s := rfl
@[simp] theorem exec_ldReg (x y : Reg) (s : State) : exec (.ldReg x y) s = execLdReg x y s := rfl
@[simp] theorem exec_or (x y : Reg) (s : State) : exec (.or x y) s = execOr x y s := rfl
@[simp] theorem exec_and (x y : Reg) (s : State) : exec (.and x y) s = execAnd x y s := rfl
@[simp] theorem exec_xor (x y : Reg) (s : State) : exec (.xor x y) s = execXor x y s := rfl
@[simp] theorem exec_addReg (x y : Reg) (s : State) : exec (.addReg x y) s = execAddReg x y s := rfl
@[simp] theorem exec_sub (x y : Reg) (s : State) : exec (.sub x y) s = execSub x y s := rfl
@[simp] theorem exec_shr (x y : Reg) (s : State) : exec (.shr x y) s = execShr x y s := rfl
@[simp] theorem exec_subn (x y : Reg) (s : State) : exec (.subn x y) s = execSubn x y s := rfl
@[simp] theorem exec_shl (x y : Reg) (s : State) : exec (.shl x y) s = execShl x y s := rfl
@[simp] theorem exec_sneReg (x y : Reg) (s : State) : exec (.sneReg x y) s = execSneReg x y s := rfl
@[simp] theorem exec_ldI (nnn : Addr) (s : State) : exec (.ldI nnn) s = execLdI nnn s := rfl
@[simp] theorem exec_jpV0 (nnn : Addr) (s : State) : exec (.jpV0 nnn) s = execJpV0 nnn s := rfl
@[simp] theorem exec_rnd (x : Reg) (nn : Byte) (s : State) : exec (.rnd x nn) s = execRnd x nn s := rfl
@[simp] theorem exec_drw (x y : Reg) (n : Nat) (s : State) : exec (.drw x y n) s = execDrw x y n s := rfl
@[simp] theorem exec_skp (x : Reg) (s : State) : exec (.skp x) s = execSkp x s := rfl
@[simp] theorem exec_sknp (x : Reg) (s : State) : exec (.sknp x) s = execSknp x s := rfl
@[simp] theorem exec_ldVxDt (x : Reg) (s : State) : exec (.ldVxDt x) s = execLdVxDt x s := rfl
@[simp] theorem exec_ldDtVx (x : Reg) (s : State) : exec (.ldDtVx x) s = execLdDtVx x s := rfl
@[simp] theorem exec_ldStVx (x : Reg) (s : State) : exec (.ldStVx x) s = execLdStVx x s := rfl
@[simp] theorem exec_addI (x : Reg) (s : State) : exec (.addI x) s = execAddI x s := rfl
@[simp] theorem exec_ldF (x : Reg) (s : State) : exec (.ldF x) s = execLdF x s := rfl
@[simp] theorem exec_ldB (x : Reg) (s : State) : exec (.ldB x) s = execLdB x s := rfl
@[simp] theorem exec_ldMemVx (x : Reg) (s : State) : exec (.ldMemVx x) s = execLdMemVx x s := rfl
@[simp] theorem exec_ldVxMem (x : Reg) (s : State) : exec (.ldVxMem x) s = execLdVxMem x s := rfl

/-- What no instruction changes: the fault latch, the remainder of real time, the key inputs, the schedule, the frame in progress,
what was presented, and the OPEN parameters; and memory stays in canonical form (spec/10_state.md section 11). -/
theorem exec_keeps {i : Instr} {s t : State} (h : exec i s = .next t) :
    (t.fault = s.fault ∧ t.tickAcc = s.tickAcc ∧ t.keys = s.keys ∧ t.schedule = s.schedule ∧ t.frameLeft = s.frameLeft ∧
      t.presented = s.presented ∧ t.params = s.params ∧ t.mem.font = s.mem.font) ∧ (s.mem.wf → t.mem.wf) := by
  cases i
  case ldVxMem x =>
    rw [exec_ldVxMem, execLdVxMem, Host.Outcome.next.injEq, State.advanceIndex_eq] at h
    rw [← h]
    simp
  case call => cases h; exact ⟨by simp [State.push_eq], fun h => Memory.wf_write2 h _ _⟩
  case ldB => cases h; exact ⟨by simp, fun h => Memory.wf_writeBytes h _ _⟩
  case ldMemVx => cases h; exact ⟨by simp [State.advanceIndex_eq], fun h => Memory.wf_writeBytes h _ _⟩
  case rnd => cases h; rw [State.drawDone_eq]; simp
  all_goals cases h; simp [State.skipIf_eq, State.setRegFlag]

end Sys2Proof.Machine
end

