-- ==== Sys2Proof/Laws/PerInstr.lean ====
section
/-! SUPPORT. Statements made of every instruction: the word of each has the fixed bits of its row of the opcode map
(spec/30_encoding.md R53, R56). -/

namespace Sys2Proof.Laws

/-- The word's value modulo a mask's fields: which row a format's word matches. -/
theorem accepts_formatA (a : BitVec 4) (nnn : Addr) : formatA a nnn &&& 0xF000 = a ++ 0#12 := by
  ext k hk
  simp only [formatA, BitVec.getElem_and, BitVec.getElem_append]
  interval_cases k <;> simp

theorem accepts_formatXB (a : BitVec 4) (x : Reg) (nn : Byte) : formatXB a x nn &&& 0xF000 = a ++ 0#12 := by
  ext k hk
  simp only [formatXB, BitVec.getElem_and, BitVec.getElem_append]
  interval_cases k <;> simp

theorem accepts_formatX (a : BitVec 4) (x : Reg) (low : Byte) : formatX a x low &&& 0xF0FF = a ++ 0#4 ++ low := by
  ext k hk
  simp only [formatX, BitVec.getElem_and, BitVec.getElem_append]
  interval_cases k <;> simp

theorem accepts_formatXY (a : BitVec 4) (x y : Reg) (n : BitVec 4) : formatXY a x y n &&& 0xF00F = a ++ 0#8 ++ n := by
  ext k hk
  simp only [formatXY, BitVec.getElem_and, BitVec.getElem_append]
  interval_cases k <;> simp

theorem accepts_formatXYN (a : BitVec 4) (x y : Reg) (n : BitVec 4) : formatXY a x y n &&& 0xF000 = a ++ 0#12 := by
  ext k hk
  simp only [formatXY, BitVec.getElem_and, BitVec.getElem_append]
  interval_cases k <;> simp

/-- The word of a well-formed instruction matches a row of the opcode map (R56). -/
def EncodesRow.Statement (i : Instr) : Prop := WellFormed i → ∃ r ∈ opcodeRows, r.accepts (encode i) = true

theorem EncodesRow.cls : EncodesRow.Statement .cls :=
  fun _ => ⟨⟨0x00E0, 0xFFFF⟩, by decide, by decide⟩

theorem EncodesRow.ret : EncodesRow.Statement .ret :=
  fun _ => ⟨⟨0x00EE, 0xFFFF⟩, by decide, by decide⟩

theorem EncodesRow.jp (nnn : Addr) : EncodesRow.Statement (.jp nnn) :=
  fun _ => ⟨⟨0x1000, 0xF000⟩, by decide, beq_iff_eq.mpr ((accepts_formatA _ _).trans (by decide))⟩

theorem EncodesRow.call (nnn : Addr) : EncodesRow.Statement (.call nnn) :=
  fun _ => ⟨⟨0x2000, 0xF000⟩, by decide, beq_iff_eq.mpr ((accepts_formatA _ _).trans (by decide))⟩

theorem EncodesRow.seImm (x : Reg) (nn : Byte) : EncodesRow.Statement (.seImm x nn) :=
  fun _ => ⟨⟨0x3000, 0xF000⟩, by decide, beq_iff_eq.mpr ((accepts_formatXB _ _ _).trans (by decide))⟩

theorem EncodesRow.sneImm (x : Reg) (nn : Byte) : EncodesRow.Statement (.sneImm x nn) :=
  fun _ => ⟨⟨0x4000, 0xF000⟩, by decide, beq_iff_eq.mpr ((accepts_formatXB _ _ _).trans (by decide))⟩

theorem EncodesRow.seReg (x y : Reg) : EncodesRow.Statement (.seReg x y) :=
  fun _ => ⟨⟨0x5000, 0xF00F⟩, by decide, beq_iff_eq.mpr ((accepts_formatXY _ _ _ _).trans (by decide))⟩

theorem EncodesRow.ldImm (x : Reg) (nn : Byte) : EncodesRow.Statement (.ldImm x nn) :=
  fun _ => ⟨⟨0x6000, 0xF000⟩, by decide, beq_iff_eq.mpr ((accepts_formatXB _ _ _).trans (by decide))⟩

theorem EncodesRow.addImm (x : Reg) (nn : Byte) : EncodesRow.Statement (.addImm x nn) :=
  fun _ => ⟨⟨0x7000, 0xF000⟩, by decide, beq_iff_eq.mpr ((accepts_formatXB _ _ _).trans (by decide))⟩

theorem EncodesRow.ldReg (x y : Reg) : EncodesRow.Statement (.ldReg x y) :=
  fun _ => ⟨⟨0x8000, 0xF00F⟩, by decide, beq_iff_eq.mpr ((accepts_formatXY _ _ _ _).trans (by decide))⟩

theorem EncodesRow.or (x y : Reg) : EncodesRow.Statement (.or x y) :=
  fun _ => ⟨⟨0x8001, 0xF00F⟩, by decide, beq_iff_eq.mpr ((accepts_formatXY _ _ _ _).trans (by decide))⟩

theorem EncodesRow.and (x y : Reg) : EncodesRow.Statement (.and x y) :=
  fun _ => ⟨⟨0x8002, 0xF00F⟩, by decide, beq_iff_eq.mpr ((accepts_formatXY _ _ _ _).trans (by decide))⟩

theorem EncodesRow.xor (x y : Reg) : EncodesRow.Statement (.xor x y) :=
  fun _ => ⟨⟨0x8003, 0xF00F⟩, by decide, beq_iff_eq.mpr ((accepts_formatXY _ _ _ _).trans (by decide))⟩

theorem EncodesRow.addReg (x y : Reg) : EncodesRow.Statement (.addReg x y) :=
  fun _ => ⟨⟨0x8004, 0xF00F⟩, by decide, beq_iff_eq.mpr ((accepts_formatXY _ _ _ _).trans (by decide))⟩

theorem EncodesRow.sub (x y : Reg) : EncodesRow.Statement (.sub x y) :=
  fun _ => ⟨⟨0x8005, 0xF00F⟩, by decide, beq_iff_eq.mpr ((accepts_formatXY _ _ _ _).trans (by decide))⟩

theorem EncodesRow.shr (x y : Reg) : EncodesRow.Statement (.shr x y) :=
  fun _ => ⟨⟨0x8006, 0xF00F⟩, by decide, beq_iff_eq.mpr ((accepts_formatXY _ _ _ _).trans (by decide))⟩

theorem EncodesRow.subn (x y : Reg) : EncodesRow.Statement (.subn x y) :=
  fun _ => ⟨⟨0x8007, 0xF00F⟩, by decide, beq_iff_eq.mpr ((accepts_formatXY _ _ _ _).trans (by decide))⟩

theorem EncodesRow.shl (x y : Reg) : EncodesRow.Statement (.shl x y) :=
  fun _ => ⟨⟨0x800E, 0xF00F⟩, by decide, beq_iff_eq.mpr ((accepts_formatXY _ _ _ _).trans (by decide))⟩

theorem EncodesRow.sneReg (x y : Reg) : EncodesRow.Statement (.sneReg x y) :=
  fun _ => ⟨⟨0x9000, 0xF00F⟩, by decide, beq_iff_eq.mpr ((accepts_formatXY _ _ _ _).trans (by decide))⟩

theorem EncodesRow.ldI (nnn : Addr) : EncodesRow.Statement (.ldI nnn) :=
  fun _ => ⟨⟨0xA000, 0xF000⟩, by decide, beq_iff_eq.mpr ((accepts_formatA _ _).trans (by decide))⟩

theorem EncodesRow.jpV0 (nnn : Addr) : EncodesRow.Statement (.jpV0 nnn) :=
  fun _ => ⟨⟨0xB000, 0xF000⟩, by decide, beq_iff_eq.mpr ((accepts_formatA _ _).trans (by decide))⟩

theorem EncodesRow.rnd (x : Reg) (nn : Byte) : EncodesRow.Statement (.rnd x nn) :=
  fun _ => ⟨⟨0xC000, 0xF000⟩, by decide, beq_iff_eq.mpr ((accepts_formatXB _ _ _).trans (by decide))⟩

theorem EncodesRow.drw (x y : Reg) (n : Nat) : EncodesRow.Statement (.drw x y n) :=
  fun _ => ⟨⟨0xD000, 0xF000⟩, by decide, beq_iff_eq.mpr ((accepts_formatXYN _ _ _ _).trans (by decide))⟩

theorem EncodesRow.skp (x : Reg) : EncodesRow.Statement (.skp x) :=
  fun _ => ⟨⟨0xE09E, 0xF0FF⟩, by decide, beq_iff_eq.mpr ((accepts_formatX _ _ _).trans (by decide))⟩

theorem EncodesRow.sknp (x : Reg) : EncodesRow.Statement (.sknp x) :=
  fun _ => ⟨⟨0xE0A1, 0xF0FF⟩, by decide, beq_iff_eq.mpr ((accepts_formatX _ _ _).trans (by decide))⟩

theorem EncodesRow.ldVxDt (x : Reg) : EncodesRow.Statement (.ldVxDt x) :=
  fun _ => ⟨⟨0xF007, 0xF0FF⟩, by decide, beq_iff_eq.mpr ((accepts_formatX _ _ _).trans (by decide))⟩

theorem EncodesRow.ldDtVx (x : Reg) : EncodesRow.Statement (.ldDtVx x) :=
  fun _ => ⟨⟨0xF015, 0xF0FF⟩, by decide, beq_iff_eq.mpr ((accepts_formatX _ _ _).trans (by decide))⟩

theorem EncodesRow.ldStVx (x : Reg) : EncodesRow.Statement (.ldStVx x) :=
  fun _ => ⟨⟨0xF018, 0xF0FF⟩, by decide, beq_iff_eq.mpr ((accepts_formatX _ _ _).trans (by decide))⟩

theorem EncodesRow.addI (x : Reg) : EncodesRow.Statement (.addI x) :=
  fun _ => ⟨⟨0xF01E, 0xF0FF⟩, by decide, beq_iff_eq.mpr ((accepts_formatX _ _ _).trans (by decide))⟩

theorem EncodesRow.ldF (x : Reg) : EncodesRow.Statement (.ldF x) :=
  fun _ => ⟨⟨0xF029, 0xF0FF⟩, by decide, beq_iff_eq.mpr ((accepts_formatX _ _ _).trans (by decide))⟩

theorem EncodesRow.ldB (x : Reg) : EncodesRow.Statement (.ldB x) :=
  fun _ => ⟨⟨0xF033, 0xF0FF⟩, by decide, beq_iff_eq.mpr ((accepts_formatX _ _ _).trans (by decide))⟩

theorem EncodesRow.ldMemVx (x : Reg) : EncodesRow.Statement (.ldMemVx x) :=
  fun _ => ⟨⟨0xF055, 0xF0FF⟩, by decide, beq_iff_eq.mpr ((accepts_formatX _ _ _).trans (by decide))⟩

theorem EncodesRow.ldVxMem (x : Reg) : EncodesRow.Statement (.ldVxMem x) :=
  fun _ => ⟨⟨0xF065, 0xF0FF⟩, by decide, beq_iff_eq.mpr ((accepts_formatX _ _ _).trans (by decide))⟩

end Sys2Proof.Laws
end

