-- ==== Sys2Proof/Laws/Step.lean ====
section
/-! SUPPORT. What one transition can do: an inversion lemma for the core's step, one for a frame's step and one for the machine's
step, for every invariant to be derived from. -/

namespace Sys2Proof.Machine

/-- All the core's `Step` can do when it has a next state (R55, R141). -/
theorem coreStep_next {s t : State} (h : coreStep s = .next t) :
    s.fault = none ∧
      ((∃ i, decodeWord s.fetchWord = some i ∧ exec i s.skip = .next t) ∨
        (decodeWord s.fetchWord = none ∧ t = s.skip.raiseUnknownOpcode s.fetchWord s.pc)) := by
  unfold coreStep at h
  split at h
  · cases h
  · rename_i hf
    refine ⟨hf, ?_⟩
    split at h
    · rename_i i hi; exact .inl ⟨i, hi, h⟩
    · rename_i hi; cases h; exact .inr ⟨hi, rfl⟩

/-- All a frame's step can do when it has a next state: nothing when the latch is set, else the core's `Step` (R176). -/
theorem frameStep_next {s t : State} (h : frameStep s = .next t) :
    (s.fault ≠ none ∧ t = s) ∨ coreStep s = .next t := by
  unfold frameStep at h
  split at h
  · rename_i hf; cases h; exact .inl ⟨by simpa [Option.isSome_iff_ne_none] using hf, rfl⟩
  · exact .inr h

/-- All an event of the schedule can do when it has a next state (R4, R150, R152, R170, R176). -/
theorem runEvent_next {e : Event} {s t : State} (h : runEvent e s = .next t) :
    (e = .step ∧ coreStep s = .next t) ∨
    (e = .tick ∧ t = s.tick) ∨
    (∃ d inputs, e = .frame d inputs ∧ 0 ≤ d ∧ t = s.beginFrame d inputs) ∨
    (∃ ks, e = .keys ks ∧ t = s.setKeys ks) ∨
    (∃ rom, e = .reset rom ∧ rom.length ≤ 3584 ∧ t = s.load rom) := by
  cases e with
  | step => exact .inl ⟨rfl, h⟩
  | tick => cases h; exact .inr (.inl ⟨rfl, rfl⟩)
  | frame d inputs =>
    simp only [runEvent] at h
    split at h
    · cases h
    · rename_i hd; cases h; exact .inr (.inr (.inl ⟨d, inputs, rfl, not_lt.mp hd, rfl⟩))
  | keys ks => cases h; exact .inr (.inr (.inr (.inl ⟨ks, rfl, rfl⟩)))
  | reset rom =>
    simp only [runEvent] at h
    split at h
    · rename_i hr; cases h; exact .inr (.inr (.inr (.inr ⟨rom, rfl, hr, rfl⟩)))
    · cases h

/-- All the next part of a frame can do when it has a next state: a key change, a step, or the presentation (R152, R176). -/
theorem framePart_next {left : List (Option Keys)} {s t : State} (h : framePart left s = .next t) :
    (∃ ks rest, left = some ks :: rest ∧ t = (s.setFrameLeft (some (none :: rest))).setKeys ks) ∨
    (∃ rest, left = none :: rest ∧ frameStep (s.setFrameLeft (some rest)) = .next t) ∨
    (left = [] ∧ t = (s.setFrameLeft none).present) := by
  unfold framePart at h
  split at h
  · rename_i ks rest; cases h; exact .inl ⟨ks, rest, rfl, rfl⟩
  · rename_i rest; exact .inr (.inl ⟨rest, rfl, h⟩)
  · cases h; exact .inr (.inr ⟨rfl, rfl⟩)

/-- All a step can do when it has a next state: the next part of the frame in progress; between frames the core's `Step` when
nothing is scheduled, else the first event, taken off the schedule (R4). -/
theorem step_next {s t : State} (h : step s = .next t) :
    (∃ left, s.frameLeft = some left ∧ framePart left s = .next t) ∨
    (s.frameLeft = none ∧ s.schedule = [] ∧ coreStep s = .next t) ∨
    (s.frameLeft = none ∧ ∃ e rest, s.schedule = e :: rest ∧ runEvent e (s.setSchedule rest) = .next t) := by
  unfold step nextTransition at h
  split at h
  · rename_i left hl; exact .inl ⟨left, hl, h⟩
  · rename_i hl
    split at h
    · rename_i hs; exact .inr (.inl ⟨hl, hs, h⟩)
    · rename_i e rest hs; exact .inr (.inr ⟨hl, e, rest, hs, h⟩)

/-- No transition at all is safe exactly when the latch is clear (R142). -/
@[simp] theorem safeFor_zero (s : State) : SafeFor 0 s ↔ s.running := by
  simp [SafeFor, steps]

/-- A safe run is a state with the latch clear, a transition, and a safe run from there (R142). -/
theorem safeFor_succ (n : Nat) (s : State) : SafeFor (n + 1) s ↔ s.running ∧ ∃ t, step s = .next t ∧ SafeFor n t := by
  constructor
  · intro h
    obtain ⟨_, h0, hr⟩ := h 0 (Nat.zero_le _)
    cases h0
    obtain ⟨_, h1, -⟩ := h 1 (by omega)
    cases hs : step s with
    | next t =>
      refine ⟨hr, t, rfl, fun k hk => ?_⟩
      obtain ⟨u, hu, hur⟩ := h (k + 1) (by omega)
      exact ⟨u, by simpa only [steps, hs] using hu, hur⟩
    | fault f => simp [steps, hs] at h1
    | refused r => simp [steps, hs] at h1
  · rintro ⟨hr, t, ht, h⟩ k hk
    cases k with
    | zero => exact ⟨s, rfl, hr⟩
    | succ k =>
      obtain ⟨u, hu, hur⟩ := h k (by omega)
      exact ⟨u, by simpa only [steps, ht] using hu, hur⟩

/-- With a frame in progress a step is its next part (R176). -/
theorem step_of_frameLeft {s : State} {left : List (Option Keys)} (h : s.frameLeft = some left) :
    step s = framePart left s := by
  simp [step, nextTransition, h]

/-- Between frames, with nothing scheduled, a step is the core's `Step` (R4). -/
theorem step_of_schedule_nil {s : State} (hl : s.frameLeft = none) (h : s.schedule = []) : step s = coreStep s := by
  simp [step, nextTransition, hl, h]

/-- Between frames, with an event scheduled, a step is that event (R4). -/
theorem step_of_schedule_cons {s : State} {e : Event} {rest : List Event} (hl : s.frameLeft = none)
    (h : s.schedule = e :: rest) : step s = runEvent e (s.setSchedule rest) := by
  simp [step, nextTransition, hl, h]

/-- A turn of the core, taken, changes only the schedule or the frame in progress. -/
theorem coreTurn_eq {s u : State} (h : s.coreTurn u) :
    u = { s with schedule := u.schedule, frameLeft := u.frameLeft } := by
  rcases h with ⟨-, -, rfl⟩ | ⟨_, -, -, rfl⟩ | ⟨_, -, rfl⟩ <;> rfl

/-- When it is the core's turn and the latch is clear, a step is the core's `Step` (R55, R142). -/
theorem step_of_coreTurn {s u : State} (h : s.coreTurn u) (hr : s.running) : step s = coreStep u := by
  rcases h with ⟨hl, hs, rfl⟩ | ⟨rest, hl, hs, rfl⟩ | ⟨rest, hl, rfl⟩
  · exact step_of_schedule_nil hl hs
  · rw [step_of_schedule_cons hl hs]; rfl
  · rw [step_of_frameLeft hl]
    have hf : s.fault = none := hr
    simp [framePart, frameStep, hf]

end Sys2Proof.Machine
end

