-- ==== Sys2Proof/Tests/Slice0.lean ====
section
/-! SUPPORT. The model's own tests. Expected results are the spec's: spec/95_test_vectors.md (vector names in the comments) and
the encodings of spec/30_encoding.md R56. Then, for every statement that has hypotheses, a state and operands that meet them. -/

namespace Sys2Proof.Tests

open Sys2Proof Sys2Proof.Machine

/-! ## Helpers -/

/-- The state after reset with the word `w` at `0x200`, as the vectors place it. -/
def placed (w : Nat) : State := State.reset.withFetchWord 16 w

/-- What is read of the state after one step, if there is one. -/
def after {α : Type} (s : State) (read : State → α) : Option α :=
  match step s with
  | .next t => some (read t)
  | .fault _ => none
  | .refused _ => none

/-- `V1`, `V2` and `VF` after one step of the word `w`, from the sentinel `VF = 77`. -/
def alu (w : Nat) (v1 v2 : Byte) : Option (Byte × Byte × Byte) :=
  after (((placed w).setReg 1 v1).setReg 2 v2 |>.setReg VF 0x77) fun t => (t.reg 1, t.reg 2, t.reg VF)

/-- The state with the listed dots lit and no other. -/
def lit (s : State) (ks : List Nat) : State := s.setDisp (ks.foldl (fun d k => d ||| (1#Config.dots <<< k)) 0#Config.dots)

/-- The dots lit in a state. -/
def dotsLit (s : State) : List Nat := (List.range 2048).filter fun k => s.disp.getLsbD k

/-- Keys down: those listed and no other. -/
def keysDown (ks : List Nat) : Keys := Vector.ofFn fun k => ks.contains k.val

/-! ## Decoding: one word for each row of R56, and words of R58 -/

theorem test_decode_rows_1_to_9 :
    decodeWord 0x00E0 = some .cls ∧ decodeWord 0x00EE = some .ret ∧ decodeWord 0x1234 = some (.jp 0x234) ∧
    decodeWord 0x2300 = some (.call 0x300) ∧ decodeWord 0x3105 = some (.seImm 1 5) ∧
    decodeWord 0x4A05 = some (.sneImm 0xA 5) ∧ decodeWord 0x5120 = some (.seReg 1 2) ∧
    decodeWord 0x6105 = some (.ldImm 1 5) ∧ decodeWord 0x71FF = some (.addImm 1 0xFF) := by decide

theorem test_decode_rows_10_to_18 :
    decodeWord 0x8120 = some (.ldReg 1 2) ∧ decodeWord 0x8121 = some (.or 1 2) ∧ decodeWord 0x8122 = some (.and 1 2) ∧
    decodeWord 0x8123 = some (.xor 1 2) ∧ decodeWord 0x8FE4 = some (.addReg 0xF 0xE) ∧
    decodeWord 0x8125 = some (.sub 1 2) ∧ decodeWord 0x8126 = some (.shr 1 2) ∧
    decodeWord 0x8127 = some (.subn 1 2) ∧ decodeWord 0x812E = some (.shl 1 2) := by decide

theorem test_decode_rows_19_to_25 :
    decodeWord 0x9120 = some (.sneReg 1 2) ∧ decodeWord 0xA2F0 = some (.ldI 0x2F0) ∧
    decodeWord 0xBFFF = some (.jpV0 0xFFF) ∧ decodeWord 0xC10F = some (.rnd 1 0x0F) ∧
    decodeWord 0xD235 = some (.drw 2 3 5) ∧ decodeWord 0xE19E = some (.skp 1) ∧
    decodeWord 0xE1A1 = some (.sknp 1) := by decide

theorem test_decode_rows_26_to_33 :
    decodeWord 0xF107 = some (.ldVxDt 1) ∧ decodeWord 0xF115 = some (.ldDtVx 1) ∧ decodeWord 0xF118 = some (.ldStVx 1) ∧
    decodeWord 0xF11E = some (.addI 1) ∧ decodeWord 0xF129 = some (.ldF 1) ∧ decodeWord 0xF133 = some (.ldB 1) ∧
    decodeWord 0xFA55 = some (.ldMemVx 0xA) ∧ decodeWord 0xF265 = some (.ldVxMem 2) := by decide

/-- Section 2.6's faulting words. -/
theorem test_decode_unknown_words :
    ∀ w ∈ [0x0000, 0x00E1, 0x00FF, 0x0123, 0x5121, 0x512F, 0x8128, 0x812D, 0x812F, 0x9121] ++
      [0xE19F, 0xE1A0, 0xE100, 0xF10A, 0xF100, 0xF11F, 0xF130, 0xF175, 0xF185, 0xFFFF],
      decodeTableWord 16 w = none := by decide

/-- Section 2.6's accepted neighbours. -/
theorem test_decode_accepted_neighbours :
    ∀ w ∈ [0x00E0, 0x00EE, 0x5120, 0x8120, 0x8127, 0x812E, 0x8FF6, 0x9120] ++
      [0xE19E, 0xE1A1, 0xF107, 0xF11E, 0xF133, 0xF165, 0xD000, 0xBFFF, 0xCFFF],
      (decodeTableWord 16 w).isSome = true := by decide

/-- Section 7's examples of the inverse direction. -/
theorem test_encode_examples :
    encode (.ldImm 1 5) = 0x6105 ∧ encode (.seImm 1 5) = 0x3105 ∧ encode (.drw 2 3 5) = 0xD235 ∧
    encode (.ldMemVx 0xA) = 0xFA55 := by decide

/-- Fewer than two bytes hold no instruction. -/
theorem test_decode_truncated : decode [0x61] = .truncated ∧ decode [0x61, 0x05, 0x31] = .instr (.ldImm 1 5) [0x31] := by
  decide

/-! ## WellFormed: the one check, the sprite height (R52) -/

theorem test_wellFormed_refuses_height_16 : ¬ WellFormed (.drw 0 0 16) := by decide

theorem test_wellFormed_accepts_height_15 : WellFormed (.drw 0xF 0xF 15) := by decide

/-! ## Control transfer (section 2.1) -/

/-- S1: two steps. -/
theorem test_source_scenario_S1 :
    (after (placed 0x6105) fun t => (t.reg 1, t.pc)) = some (5, 0x202) ∧
    after (((placed 0).setMem ((placed 0).mem.write2 0x202 0x3105) |>.setPc 0x202).setReg 1 5) State.pc = some 0x206 := by decide

/-- J1, J3. -/
theorem test_jp : after (placed 0x1234) State.pc = some 0x234 ∧ after (placed 0x1200) State.pc = some 0x200 := by decide

/-- J4. -/
theorem test_call :
    after (placed 0x2300) (fun t => (t.mem.read 0xEA0, t.mem.read 0xEA1, t.sp, t.pc)) = some (2, 2, 1, 0x300) := by decide

/-- J6, J7: the pushed address wraps, the pointer wraps. -/
theorem test_call_wraps :
    after ((State.reset.setPc 0xFFF).withFetchWord 16 0x2300 |>.setSp 0xF)
      (fun t => (t.mem.read 0xEBE, t.mem.read 0xEBF, t.sp, t.pc)) = some (0, 1, 0, 0x300) := by decide

/-- J9: the top nibble is dropped. -/
theorem test_ret :
    after (((placed 0x00EE).setSp 1).setMem ((placed 0x00EE).mem.write2 0xEA0 0xF246))
      (fun t => (t.sp, t.pc, t.mem.read 0xEA0)) = some (0, 0x246, 0xF2) := by decide

/-- J10: the stack is empty. -/
theorem test_ret_empty : after (placed 0x00EE) (fun t => (t.sp, t.pc)) = some (0xF, 0) := by decide

/-- J11, J12. -/
theorem test_seImm :
    after ((placed 0x3105).setReg 1 5) State.pc = some 0x204 ∧ after ((placed 0x3105).setReg 1 4) State.pc = some 0x202 := by
  decide

/-- J22: the skip wraps. -/
theorem test_seImm_wraps :
    after (((State.reset.setPc 0xFFE).withFetchWord 16 0x3105).setReg 1 5) State.pc = some 0x002 := by decide

/-- J13, J14. -/
theorem test_sneImm :
    after ((placed 0x4105).setReg 1 5) State.pc = some 0x202 ∧ after (placed 0x4105) State.pc = some 0x204 := by decide

/-- J15, J16. -/
theorem test_seReg :
    after (((placed 0x5120).setReg 1 7).setReg 2 7) State.pc = some 0x204 ∧
    after (((placed 0x5120).setReg 1 7).setReg 2 8) State.pc = some 0x202 := by decide

/-- J18, J19. -/
theorem test_sneReg :
    after (((placed 0x9120).setReg 1 1).setReg 2 2) State.pc = some 0x204 ∧
    after (((placed 0x9120).setReg 1 2).setReg 2 2) State.pc = some 0x202 := by decide

/-- J23, J27: the sum wraps. -/
theorem test_jpV0 :
    after ((placed 0xBFFF).setReg 0 2) State.pc = some 0x001 ∧ after ((placed 0xBFFF).setReg 0 0xFF) State.pc = some 0x0FE := by
  decide

/-! ## Registers, arithmetic, logic, shifts (section 2.2) -/

/-- A26, A31 (`VF` as a plain destination). -/
theorem test_ldImm_addImm :
    alu 0x61AB 0 0 = some (0xAB, 0, 0x77) ∧ after ((placed 0x7F01).setReg VF 0xFF) (fun t => t.reg VF) = some 0 := by decide

/-- A27, A28: no carry is reported. -/
theorem test_addImm : alu 0x7101 0xFF 0 = some (0, 0, 0x77) ∧ alu 0x71FF 5 0 = some (4, 0, 0x77) := by decide

/-- A25, A22, A23, A24. -/
theorem test_load_and_logic :
    alu 0x8120 0x11 0xAB = some (0xAB, 0xAB, 0x77) ∧ alu 0x8121 0xF0 0x0F = some (0xFF, 0x0F, 0x77) ∧
    alu 0x8122 0xF3 0x3F = some (0x33, 0x3F, 0x77) ∧ alu 0x8123 0xFF 0x0F = some (0xF0, 0x0F, 0x77) := by decide

/-- A1, A3: the carry's boundary. -/
theorem test_addReg : alu 0x8124 0xFF 1 = some (0, 1, 1) ∧ alu 0x8124 0x80 0x7F = some (0xFF, 0x7F, 0) := by decide

/-- A33, A34: the flag wins over the result, the old flag is an operand. -/
theorem test_addReg_flag_register :
    after (((placed 0x8F14).setReg VF 3).setReg 1 4) (fun t => t.reg VF) = some 0 ∧
    after (((placed 0x81F4).setReg 1 0xFF).setReg VF 1) (fun t => (t.reg 1, t.reg VF)) = some (0, 1) := by decide

/-- A5, A6, A7. -/
theorem test_sub :
    alu 0x8125 5 7 = some (0xFE, 7, 0) ∧ alu 0x8125 7 5 = some (2, 5, 1) ∧ alu 0x8125 7 7 = some (0, 7, 1) := by decide

/-- A10, A11. -/
theorem test_subn : alu 0x8127 5 7 = some (2, 7, 1) ∧ alu 0x8127 7 5 = some (0xFE, 5, 0) := by decide

/-- A14, A17. -/
theorem test_shr : alu 0x8126 5 0xAA = some (2, 0xAA, 1) ∧ alu 0x8126 0xFE 0xAA = some (0x7F, 0xAA, 0) := by decide

/-- A18, A20. -/
theorem test_shl : alu 0x812E 0x81 0xAA = some (2, 0xAA, 1) ∧ alu 0x812E 0x7F 0xAA = some (0xFE, 0xAA, 0) := by decide

/-! ## Index and memory (section 2.3) -/

/-- M1. -/
theorem test_ldI : after (placed 0xA2F0) State.i = some 0x2F0 := by decide

/-- M5, M6: the boundary of the overflow. -/
theorem test_addI :
    after (((placed 0xF11E).setI 0xF00).setReg 1 0xFF) (fun t => (t.i, t.reg VF)) = some (0xFFF, 0) ∧
    after (((placed 0xF11E).setI 0xF01).setReg 1 0xFF) (fun t => (t.i, t.reg VF)) = some (0, 1) := by decide

/-- The font address of `0A` and `FF`. -/
theorem test_ldF :
    after ((placed 0xF129).setReg 1 0x0A) State.i = some 0x032 ∧ after ((placed 0xF129).setReg 1 0xFF) State.i = some 0x4FB := by
  decide

/-- 156 at `0x300`; 123 at `0xFFE`, where the address wraps. -/
theorem test_ldB :
    after (((placed 0xF133).setI 0x300).setReg 1 0x9C) (fun t => (t.mem.readBytes 0x300 4, t.i)) = some ([1, 5, 6, 0], 0x300) ∧
    after (((placed 0xF133).setI 0xFFE).setReg 1 0x7B) (fun t => t.mem.readBytes 0xFFE 4) = some [1, 2, 3, 0x90] := by decide

/-- M9a. -/
theorem test_ldMemVx :
    after ((((placed 0xF255).setI 0x300).setReg 0 0x10 |>.setReg 1 0x11).setReg 2 0x12 |>.setReg 3 0x13)
      (fun t => (t.mem.readBytes 0x2FF 5, t.i)) = some ([0, 0x10, 0x11, 0x12, 0], 0x303) := by decide

/-- M9d: addresses and `I` wrap. -/
theorem test_ldMemVx_wraps :
    after ((((placed 0xF355).setI 0xFFE).setReg 0 0x10 |>.setReg 1 0x11).setReg 2 0x12 |>.setReg 3 0x13)
      (fun t => (t.mem.readBytes 0xFFE 5, t.i)) = some ([0x10, 0x11, 0x12, 0x13, 0x90], 0x002) := by decide

/-- M10. -/
theorem test_ldVxMem :
    after ((((placed 0xF265).setI 0x300).setReg 3 0x99).setMem ((placed 0xF265).mem.writeBytes 0x300 [1, 2, 3, 4]))
      (fun t => (t.reg 0, t.reg 1, t.reg 2, t.reg 3, t.i)) = some (1, 2, 3, 0x99, 0x303) := by decide

/-- M11: the second byte is the font's. -/
theorem test_ldVxMem_wraps :
    after (((placed 0xF165).setI 0xFFF).setMem ((placed 0xF165).mem.write 0xFFF 0xAA))
      (fun t => (t.reg 0, t.reg 1, t.i)) = some (0xAA, 0xF0, 0x001) := by decide

/-! ## Display (section 2.4) -/

/-- G1. -/
theorem test_cls : after (lit (placed 0x00E0) [0, 100, 2047]) dotsLit = some [] := by decide +kernel

/-- G4: glyph A, wrapped on both axes. -/
theorem test_drw_wraps :
    after ((((placed 0xD125).setI 0x032).setReg 1 0x3E).setReg 2 0x1E) (fun t => (dotsLit t, t.reg VF)) =
      some ([0, 1, 62, 63, 65, 126, 129, 190, 1920, 1921, 1982, 1983, 1985, 2046], 0) := by decide +kernel

/-- G6, G10: a collision; the old flag as the column. -/
theorem test_drw_flag :
    after (lit (((placed 0xD011).setI 0x300).setMem ((placed 0xD011).mem.write 0x300 0xFF)) [3])
      (fun t => (dotsLit t, t.reg VF)) = some ([0, 1, 2, 4, 5, 6, 7], 1) ∧
    after ((((placed 0xDF01).setI 0x300).setMem ((placed 0xDF01).mem.write 0x300 0x80)).setReg VF 5 |>.setReg 0 2)
      (fun t => (dotsLit t, t.reg VF)) = some ([133], 0) := by decide +kernel

/-- G15, for the dots of the glyph's top row: presented at the end of a frame, not before. -/
theorem test_framebuffer :
    after ((lit State.reset [0, 1, 2, 3]).setFrameLeft (some []))
      (fun t => t.presented.map fun p => (p.fb.toList.take 5, p.width, p.height, p.fault)) =
      some (some ([1, 1, 1, 1, 0], 64, 32, none)) ∧
    after ((lit State.reset [0, 1, 2, 3]).setFrameLeft (some [some (keysDown [])])) State.presented = some none := by
  decide +kernel

/-! ## Keys, timers, random (section 2.5) -/

/-- K1, K5: the low nibble selects the key. -/
theorem test_skp :
    after (((placed 0xE19E).setReg 1 0x1A).setKeys (keysDown [0xA])) State.pc = some 0x204 ∧
    after (((placed 0xE19E).setReg 1 0x00).setKeys (keysDown [1, 2, 3])) State.pc = some 0x202 := by decide

/-- K3, K4. -/
theorem test_sknp :
    after (((placed 0xE1A1).setReg 1 0x0A).setKeys (keysDown [0xA])) State.pc = some 0x202 ∧
    after ((placed 0xE1A1).setReg 1 0x0A) State.pc = some 0x204 := by decide

/-- T1, T2, T3. -/
theorem test_timer_moves :
    after ((placed 0xF107).setDt 0x2C) (fun t => (t.reg 1, t.dt)) = some (0x2C, 0x2C) ∧
    after ((placed 0xF115).setReg 1 0x3C) State.dt = some 0x3C ∧ after ((placed 0xF118).setReg 1 5) State.st = some 5 := by decide

/-- T4, T5. -/
theorem test_tick :
    after (((State.reset.setDt 3).setSt 1).setSchedule [.tick]) (fun t => (t.dt, t.st)) = some (2, 0) ∧
    after (State.reset.setSchedule [.tick]) (fun t => (t.dt, t.st)) = some (0, 0) := by decide

/-- Q1, Q5. -/
theorem test_rnd :
    after ({ placed 0xC10F with randomIn := [0xA7] }) (fun t => (t.reg 1, t.randomIn)) = some (0x07, []) ∧
    after ({ placed 0xC155 with randomIn := [0xFF, 1] }) (fun t => (t.reg 1, t.randomIn)) = some (0x55, [1]) := by decide

/-- R176 (b): a key pressed right before a step of a frame is seen by that step. -/
theorem test_key_change_inside_a_frame :
    (match steps 2 ((placed 0xE19E).setFrameLeft (some [some (keysDown [0]), none])) with
      | .next t => some (t.pc, t.frameLeft)
      | _ => none) = some (0x204, some [none]) := by decide

/-! ## Fetch, fault, reset, frames (sections 1, 2.6, 2.7) -/

/-- X1, X2: an odd `pc`, a fetch that wraps. -/
theorem test_fetch :
    after ((State.reset.setPc 0x301).withFetchWord 16 0x6234) (fun t => (t.reg 2, t.pc)) = some (0x34, 0x303) ∧
    after ((State.reset.setPc 0xFFF).withFetchWord 16 0x6105) (fun t => (t.reg 1, t.pc)) = some (5, 0x001) := by decide

/-- X3, X4: the font and zero-filled memory are no instructions. -/
theorem test_unknown_opcode :
    after (State.reset.setPc 0) (fun t => (t.fault, t.pc)) = some (some ⟨0xF090, 0⟩, 2) ∧
    after State.reset (fun t => (t.fault, t.pc)) = some (some ⟨0, 0x200⟩, 0x202) := by decide

/-- X6: with the latch set there is no step. -/
theorem test_latched_core_stops : after (State.reset.setFault (some ⟨0, 0x200⟩)) State.pc = none := by decide

/-- R142: a run through a faulted state is not safe, though a reset follows; the self-jump of J3 runs safely. -/
theorem test_fault_refutes_safety :
    ¬ SafeFor 2 (State.reset.setSchedule [.step, .reset []]) ∧ SafeFor 2 (placed 0x1200) := by
  constructor
  · rw [safeFor_succ]
    rintro ⟨-, t, ht, h⟩
    rw [safeFor_succ] at h
    have hf : after (State.reset.setSchedule [.step, .reset []]) State.fault = some (some ⟨0, 0x200⟩) := by decide
    rw [after, ht, Option.some.injEq, h.1] at hf
    cases hf
  · simp only [safeFor_succ, safeFor_zero]
    exact ⟨rfl, _, rfl, rfl, _, rfl, rfl⟩

/-- Z1, Z3. -/
theorem test_reset :
    after (((State.reset.setReg 3 9).setFault (some ⟨0, 0⟩)).setSchedule [.reset [0x61, 0x05]])
      (fun t => (t.reg 3, t.fault, t.pc, t.mem.readBytes 0x1FF 4, t.mem.readBytes 0x4F 2)) =
      some (0, none, 0x200, [0, 0x61, 0x05, 0], [0x80, 0]) := by decide

/-- A frame's inputs without a key change. -/
def noKeyChange : Vector (Option Keys) Config.instrPerFrame := Vector.replicate 8 none

/-- S4: a frame 1/60 second after the last one counts `DT` down once, and its eight steps come next; a third of that does not. -/
theorem test_frame :
    after ((State.reset.setDt 3).setSchedule [.frame (1 / 60) noKeyChange]) (fun t => (t.dt, t.frameLeft.map List.length)) =
      some (2, some 8) ∧
    after ((State.reset.setDt 3).setSchedule [.frame (1 / 180) noKeyChange]) (fun t => (t.dt, decide (t.tickAcc = 1 / 180))) =
      some (3, true) := by decide +kernel

/-- R3's defaults: the font's glyphs in a row, the stack at `0xEA0`, the framebuffer's two bytes. -/
theorem test_default_parameters :
    State.reset.mem.font.toList = glyphs.flatten ∧ State.reset.params = ⟨0xEA0, 0x00, 0x01⟩ := by decide +kernel

/-- J4 with another `STACK_BASE` (R3, R17). -/
theorem test_call_elsewhere :
    after { placed 0x2300 with params := ⟨0x050, 0, 1⟩ } (fun t => t.mem.readBytes 0x50 2) = some [2, 2] := by decide

/-! ## Witnesses: states and operands that meet the hypotheses of the statements -/

theorem witness_DecodeInvertsEncode : WellFormed (.drw 0xF 0 15) ∧ WellFormed (.ldMemVx 0xF) := by decide

theorem witness_EncodeInvertsDecode : decodeWord 0xD00F = some (.drw 0 0 15) := by decide

theorem witness_DecoderAcceptsExactlyTheRows :
    (opcodeRows.get ⟨0, by decide⟩).accepts 0x00E0 = true ∧ (opcodeRows.get ⟨32, by decide⟩).accepts 0xFF65 = true := by decide

theorem witness_RejectedWordsAreThoseListed :
    ∀ w ∈ [0x0000, 0x0FFF, 0x5001, 0x5FFF, 0x8008, 0x8FFF, 0x9001, 0x9FFF, 0xE000, 0xEFFF, 0xF000, 0xFFFF],
      decodeWord (BitVec.ofNat 16 w) = none := by decide

theorem witness_StepRunsTheDecodedInstruction :
    (placed 0x6105).coreTurn (placed 0x6105) ∧
    ((placed 0x6105).setSchedule [.step, .tick]).coreTurn ((placed 0x6105).setSchedule [.tick]) ∧
    ((placed 0x6105).setFrameLeft (some [none])).coreTurn ((placed 0x6105).setFrameLeft (some [])) ∧
    (placed 0x6105).running ∧ decodeWord (placed 0x6105).fetchWord = some (.ldImm 1 5) :=
  ⟨.inl ⟨rfl, rfl, rfl⟩, .inr (.inl ⟨_, rfl, rfl, rfl⟩), .inr (.inr ⟨_, rfl, rfl⟩), rfl, by decide⟩

theorem witness_UnknownWordSetsTheLatch :
    State.reset.coreTurn State.reset ∧ State.reset.running ∧ decodeWord State.reset.fetchWord = none :=
  ⟨.inl ⟨rfl, rfl, rfl⟩, rfl, by decide⟩

/-- A state whose latch is set. -/
def latched : State := State.reset.setFault (some ⟨0x0000, 0x200⟩)

theorem witness_LatchedCoreHasNoStep :
    latched.fault = some ⟨0x0000, 0x200⟩ ∧ latched.frameLeft = none ∧ latched.schedule = [] ∧
    (latched.setSchedule [.step]).schedule = .step :: [] ∧ (latched.setSchedule [.tick]).schedule = .tick :: [] ∧
    (latched.setFrameLeft (some [none])).frameLeft = some (none :: []) ∧
    steps 0 latched = .next latched := ⟨rfl, rfl, rfl, rfl, rfl, rfl, rfl⟩

theorem witness_LatchStaysUntilReset :
    (latched.setSchedule [.tick]).fault = some ⟨0x0000, 0x200⟩ ∧ ¬ (latched.setSchedule [.tick]).resetNext ∧
    step (latched.setSchedule [.tick]) = .next latched.tick :=
  ⟨rfl, (fun ⟨_, _, _, h⟩ => nomatch h), rfl⟩

theorem witness_StoreIsSeenByTheNextFetch :
    ((State.reset.setI 0x200).i.toNat + (0 : Reg).val) % 4096 = (State.reset.setI 0x200).pc.toNat ∧
    ((State.reset.setI 0x1FF).i.toNat + (2 : Reg).val) % 4096 = ((State.reset.setI 0x1FF).pc.toNat + 1) % 4096 ∧
    (((State.reset.setI 0xFFF).setPc 0xFFF).i.toNat + (1 : Reg).val) % 4096 =
      (((State.reset.setI 0xFFF).setPc 0xFFF).pc.toNat + 1) % 4096 := by decide

theorem witness_CanonicalMemoriesThatReadAlikeAreEqual : Memory.wf ⟨defaultFont, [(0, 0x00), (0xFFF, 0x01)]⟩ := by decide

theorem witness_OnlyPresentedBytesAreWritten : exec .cls State.reset = .next State.reset := rfl

theorem witness_OnlyPresentedBytesAreRead :
    (∀ a ∈ (State.reset.setI 0x300).dataAddrs (.ldVxMem 1),
      Memory.read ⟨defaultFont, [(0x302, 7)]⟩ a = (State.reset.setI 0x300).mem.read a) ∧
    ∃ t, exec (.ldVxMem 1) (State.reset.setI 0x300) = .next t := ⟨by decide, _, rfl⟩

theorem witness_JumpSetsPc :
    (placed 0x1200).frameLeft = none ∧ (placed 0x1200).schedule = [] ∧ (placed 0x1200).running ∧
    (placed 0x1200).fetchWord = wordANNN 0x1 (placed 0x1200).pc := ⟨rfl, rfl, rfl, by decide⟩

theorem witness_ReturnUndoesCall :
    after (placed 0x2300) (fun t => ((t.setReg 0 1).sp, t.sp, decide ((t.setReg 0 1).params = t.params))) =
      some (1, 1, true) := by decide

/-- Each of the six forms of the skip, taken. -/
theorem witness_TakenSkipLandsFourOn :
    (placed 0x3100).runsNext (.seImm 1 0) ∧ (placed 0x3100).reg 1 = 0 ∧
    (placed 0x4105).runsNext (.sneImm 1 5) ∧ (placed 0x4105).reg 1 ≠ 5 ∧
    (placed 0x5120).runsNext (.seReg 1 2) ∧ (placed 0x5120).reg 1 = (placed 0x5120).reg 2 ∧
    ((placed 0x9120).setReg 1 1).runsNext (.sneReg 1 2) ∧
    ((placed 0x9120).setReg 1 1).reg 1 ≠ ((placed 0x9120).setReg 1 1).reg 2 ∧
    ((placed 0xE19E).setKeys (keysDown [0])).runsNext (.skp 1) ∧ ((placed 0xE19E).setKeys (keysDown [0])).keyDown 0 = true ∧
    (placed 0xE1A1).runsNext (.sknp 1) ∧ (placed 0xE1A1).keyDown ((placed 0xE1A1).reg 1) = false := by
  have turn : ∀ s : State, s.frameLeft = none → s.schedule = [] → s.fault = none →
      ∀ i, decodeWord s.fetchWord = some i → s.runsNext i :=
    fun s hl h hf i hd => ⟨hf, ⟨s, .inl ⟨hl, h, rfl⟩⟩, hd⟩
  exact ⟨turn _ rfl rfl rfl _ (by decide), by decide, turn _ rfl rfl rfl _ (by decide), by decide,
    turn _ rfl rfl rfl _ (by decide), by decide, turn _ rfl rfl rfl _ (by decide), by decide,
    turn _ rfl rfl rfl _ (by decide), by decide, turn _ rfl rfl rfl _ (by decide), by decide⟩

/-- For OnlyCallAndReturnMoveSp, DisplayPersists and DelayTimerRisesOnlyByItsLoad: a transition of each kind they name. -/
theorem witness_transitions_without_reset :
    ¬ (placed 0x2300).resetNext ∧ (after (placed 0x2300) State.sp).isSome = true ∧
    ¬ (placed 0x00EE).resetNext ∧ (after (placed 0x00EE) State.sp).isSome = true ∧
    ¬ (placed 0x00E0).resetNext ∧ (after (placed 0x00E0) State.sp).isSome = true ∧
    ¬ (placed 0xF115).resetNext ∧ (after (placed 0xF115) State.sp).isSome = true := by
  have none : ∀ s : State, s.schedule = [] → ¬ s.resetNext := fun s h ⟨_, _, _, h'⟩ => by rw [h] at h'; cases h'
  exact ⟨none _ rfl, by decide, none _ rfl, by decide, none _ rfl, by decide, none _ rfl, by decide⟩

theorem witness_SevenInstructionsWriteTheFlag :
    exec (.addReg VF 0) State.reset = .next (State.reset.setRegFlag VF 0 0) ∧ (0 : Reg) ≠ VF := ⟨rfl, by decide⟩

theorem witness_OnlyNamedRegistersAreRead : VF ∉ readRegs (.shr 1 0xF) ∧ (0xF : Reg) ∉ readRegs (.ldMemVx 0xE) := by decide

theorem witness_GlyphAddressIsFiveTimesTheRegister :
    ((State.reset.setReg 1 15).reg 1).toNat < 16 ∧ ¬ ((State.reset.setReg 1 16).reg 1).toNat < 16 := by decide

/-- For StoreRegistersWritesInOrder, LoadRegistersReadsInOrder and StoreThenLoadRoundTrip. -/
theorem witness_registers_at_the_bounds : (0 : Reg) ≤ 0 ∧ (0xF : Reg) ≤ 0xF ∧ (0xE : Reg) < 0xF := by decide

/-- The state of G6: a sprite row of eight dots over dot 3. -/
def spriteState : State := (State.reset.setI 0x300).setMem (State.reset.mem.write 0x300 0xFF)

theorem witness_DrawInvertsTheDotsUnderTheSprite :
    spriteState.lands 0 0 1 3 ∧ ¬ spriteState.lands 0 0 1 8 ∧ (lit spriteState [3]).disp.getLsbD 3 = true ∧
    (∀ k < 2048, ¬ spriteState.lands 0 0 0 k) ∧ (State.reset.setReg 1 0x3F |>.setReg 2 0x1F).lands 1 2 15 2047 := by
  refine ⟨⟨0, by decide, 3, by decide, by decide, by decide⟩, ?_, by decide +kernel, ?_,
    ⟨0, by decide, 0, by decide, by decide, by decide⟩⟩
  · rintro ⟨r, hr, c, hc, -, hk⟩
    have h0 : (spriteState.reg 0).toNat = 0 := by decide
    rw [h0] at hk
    omega
  · rintro k - ⟨r, hr, -⟩
    omega

theorem witness_DrawTwiceRestoresTheDisplay : (15 : Nat) ≤ 15 ∧ (0xE : Reg) ≠ VF ∧ (0 : Reg) ≠ VF := by decide

theorem witness_FramebufferShowsEveryDot :
    (State.reset.setFrameLeft (some [])).presentNext ∧ ¬ (placed 0x00E0).presentNext ∧ ¬ (placed 0x00E0).resetNext ∧
    (after (placed 0x00E0) State.sp).isSome = true :=
  ⟨rfl, (fun h => nomatch h), (fun ⟨_, _, _, h⟩ => nomatch h), by decide⟩

theorem witness_KeysMayChangeBetweenAnyTwoSteps :
    State.reset.frameLeft = none ∧ (State.reset.setSchedule [.keys (keysDown [1])]).schedule = .keys (keysDown [1]) :: [] ∧
    (State.reset.setFrameLeft (some [some (keysDown [1]), none])).frameLeft = some (some (keysDown [1]) :: [none]) :=
  ⟨rfl, rfl, rfl⟩

theorem witness_RandomIsMaskedAndFresh :
    ({ State.reset with randomIn := [0xA7, 0] } : State).randomIn = 0xA7 :: [0] ∧ State.reset.randomIn = [] := ⟨rfl, rfl⟩

theorem witness_RandomReachesEveryMaskedByte : (0x05 : Byte) &&& 0x0F = 0x05 ∧ ¬ (0x15 : Byte) &&& 0x0F = 0x15 := by decide

theorem witness_TickCountsBothTimersDown :
    (State.reset.setSchedule [.tick, .step]).schedule = .tick :: [.step] ∧ (State.reset.setSchedule [.tick, .step]).tickAcc = 0 ∧
    (State.reset.setSchedule [.tick, .step]).frameLeft = none := ⟨rfl, rfl, rfl⟩

/-- For ElapsedTimeMakesWholeTicks, ElapsedTimesAddUp, FrameIsItsScheduledSteps and LatchedFrameOnlyTicks. -/
theorem witness_elapsed_times :
    (0 : Rat) ≤ State.reset.tickAcc ∧ (0 : Rat) ≤ 0 ∧ (0 : Rat) ≤ 1 / 60 ∧ latched.fault ≠ none ∧ latched.frameLeft = none ∧
    (∀ k, noKeyChange.get k = none) := by decide +kernel

theorem witness_ResetSetsEveryPieceOfState :
    (State.reset.setSchedule [.reset (List.replicate 3584 1)]).schedule = .reset (List.replicate 3584 1) :: [] ∧
    State.reset.frameLeft = none ∧ (List.replicate 3584 (1 : Byte)).length ≤ 3584 ∧
    3584 < (List.replicate 3585 (1 : Byte)).length :=
  ⟨rfl, rfl, by rw [List.length_replicate], by rw [List.length_replicate]; decide⟩

/-- The last place the stack may stand, and the first it may not. -/
theorem witness_ResetMeetsTheInvariant : Params.legal ⟨0xFE0, 0x01, 0xFF⟩ ∧ ¬ Params.legal ⟨0xFE1, 0x01, 0xFF⟩ := by decide

/-- For EveryStepKeepsTheInvariant: a state that is not the reset state, and a step of it. -/
theorem witness_EveryStepKeepsTheInvariant :
    (((placed 0x2300).setTickAcc (1 / 61)).setFrameLeft (some [none])).Inv ∧
    (after (((placed 0x2300).setTickAcc (1 / 61)).setFrameLeft (some [none])) State.sp).isSome = true :=
  ⟨⟨by decide, by decide +kernel, by decide +kernel, fun _ h => by cases h; decide, by decide⟩, by decide⟩

end Sys2Proof.Tests
end

/-! PROOFS: the skips, spec/40_control_transfer.md R73 and R79. The step lemmas of Sys2Proof/Laws/Step.lean reduce a step to
`exec`; the lemmas here say what a skip does, which words it is decoded from, and that no byte beside the fetched word matters. -/

namespace Sys2Proof.Machine

/-! ## Words by their fields -/

/-- The word of R53's format XB, as a number and as a concatenation of its fields. -/
theorem wordAXNN_eq_formatXB (a : BitVec 4) (x : Reg) (nn : Byte) : wordAXNN a.toNat x nn.toNat = formatXB a x nn := by
  apply BitVec.eq_of_toNat_eq
  rw [toNat_formatXB, wordAXNN, BitVec.toNat_ofNat]
  omega

/-- `3xnn` is the immediate skip-if-equal (R56 row 5). -/
theorem decodeWord_formatXB_3 (x : Reg) (nn : Byte) : decodeWord (formatXB 0x3 x nn) = some (.seImm x nn) := by
  simp [decodeWord]

/-! ## What a write of `pc` and a skip do -/

/-- A write of `pc` changes nothing else (R14). -/
theorem sameBut_setPc (s : State) (a : Addr) : s.SameBut (s.setPc a) [.pc] := by
  simp [State.SameBut]

/-- A conditional skip changes nothing beside `pc` (R79). -/
theorem sameBut_skipIf (s : State) (c : Bool) : s.SameBut (s.skipIf c) [.pc] := by
  rw [State.skipIf_eq]
  exact sameBut_setPc s _

/-- Where a skip leaves `pc`, as a number (R79). -/
theorem toNat_pc_skip (s : State) : s.skip.pc.toNat = (s.pc.toNat + 2) % 4096 := by
  simp [State.skip_eq]

/-- A skip whose condition holds is taken (R79). -/
theorem skipIf_of_true (s : State) {c : Bool} (hc : c = true) : s.skipIf c = s.skip := if_pos hc

/-- Where a conditional skip leaves `pc`, as a number (R79). -/
theorem toNat_pc_skipIf (s : State) (c : Bool) :
    (s.skipIf c).pc.toNat = if c then (s.pc.toNat + 2) % 4096 else s.pc.toNat := by
  cases c
  · rfl
  · exact toNat_pc_skip s

/-- Settles O20: the meaning of `3xnn` is a conditional skip. -/
theorem skipIfEqualImmediate : Obligations.SkipIfEqualImmediate := by
  intro x nn s
  have hword : wordAXNN 0x3 x nn.toNat = formatXB 0x3 x nn := wordAXNN_eq_formatXB 0x3 x nn
  refine ⟨hword ▸ decodeWord_formatXB_3 x nn, s.skipIf (s.reg x == nn), rfl, ?_, sameBut_skipIf s _⟩
  simp [toNat_pc_skipIf, BitVec.toNat_inj]

/-! ## A step that runs an instruction -/

/-- With the latch clear and a word that decodes, the core's `Step` executes it past the fetch (R55). -/
theorem coreStep_of_decodeWord {s : State} {i : Instr} (hr : s.running) (hd : decodeWord s.fetchWord = some i) :
    coreStep s = exec i s.skip := by
  have hf : s.fault = none := hr
  simp [coreStep, hf, hd]

/-- Taking the turn leaves memory, `pc` and so the word fetched alone (log entries 5 and 12). -/
theorem fetchWord_coreTurn {s u : State} (h : s.coreTurn u) : u.fetchWord = s.fetchWord := by
  rw [coreTurn_eq h]; rfl

/-- Taking the turn does not touch the fault latch. -/
theorem running_coreTurn {s u : State} (h : s.coreTurn u) (hr : s.running) : u.running := by
  rw [coreTurn_eq h]; exact hr

/-- A step that runs `i` is `exec i` past the fetch, with the turn taken (R55). -/
theorem step_of_coreTurn_of_decodeWord {s u : State} {i : Instr} (h : s.coreTurn u) (hr : s.running)
    (hd : decodeWord s.fetchWord = some i) : step s = exec i u.skip := by
  rw [step_of_coreTurn h hr]
  exact coreStep_of_decodeWord (running_coreTurn h hr) (fetchWord_coreTurn h ▸ hd)

/-! ## Memory beside the word fetched -/

/-- Whose turn it is does not depend on memory. -/
theorem coreTurn_setMem {s u : State} (h : s.coreTurn u) (m : Memory) : (s.setMem m).coreTurn (u.setMem m) := by
  rcases h with ⟨hl, hs, rfl⟩ | ⟨rest, hl, hs, rfl⟩ | ⟨rest, hl, rfl⟩
  · exact .inl ⟨hl, hs, rfl⟩
  · exact .inr (.inl ⟨rest, hl, hs, rfl⟩)
  · exact .inr (.inr ⟨rest, hl, rfl⟩)

/-- The fetch does not look at the two bytes after the instruction's own (R34, R79). -/
theorem fetchWord_setMem_write_next (s : State) (b c : Byte) :
    (s.setMem ((s.mem.write (s.pc.toNat + 2) b).write (s.pc.toNat + 3) c)).fetchWord = s.fetchWord := by
  have h02 : ¬ s.pc.toNat % 4096 = (s.pc.toNat + 2) % 4096 := by omega
  have h03 : ¬ s.pc.toNat % 4096 = (s.pc.toNat + 3) % 4096 := by omega
  have h12 : ¬ (s.pc.toNat + 1) % 4096 = (s.pc.toNat + 2) % 4096 := by omega
  have h13 : ¬ (s.pc.toNat + 1) % 4096 = (s.pc.toNat + 3) % 4096 := by omega
  simp only [State.fetchWord, Memory.read2, State.mem_setMem, State.pc_setMem, Memory.read_write, h02, h03, h12, h13,
    if_false]

/-! ## Taken skips (R79) -/

/-- `i` is one of the six skips and its condition holds in `s`. -/
def State.takesSkip (s : State) (i : Instr) : Prop :=
  (∃ x nn, i = .seImm x nn ∧ s.reg x = nn) ∨ (∃ x nn, i = .sneImm x nn ∧ s.reg x ≠ nn) ∨
  (∃ x y, i = .seReg x y ∧ s.reg x = s.reg y) ∨ (∃ x y, i = .sneReg x y ∧ s.reg x ≠ s.reg y) ∨
  (∃ x, i = .skp x ∧ s.keyDown (s.reg x) = true) ∨ (∃ x, i = .sknp x ∧ s.keyDown (s.reg x) = false)

/-- Whether a skip is taken depends on the registers and the key inputs only (R73 to R76, R120, R121). -/
theorem takesSkip_congr {s t : State} {i : Instr} (hv : t.v = s.v) (hk : t.keys = s.keys) (h : s.takesSkip i) :
    t.takesSkip i := by
  unfold State.takesSkip State.keyDown State.reg at *
  rw [hv, hk]
  exact h

/-- A taken skip of any of the six forms skips and does nothing else (R79). -/
theorem exec_of_takesSkip {s : State} {i : Instr} (h : s.takesSkip i) : exec i s = .next s.skip := by
  have taken {c : Bool} (hc : c = true) : (.next (s.skipIf c) : Host.Outcome State Fault Refusal) = .next s.skip :=
    congrArg _ (skipIf_of_true s hc)
  rcases h with ⟨x, nn, rfl, h⟩ | ⟨x, nn, rfl, h⟩ | ⟨x, y, rfl, h⟩ | ⟨x, y, rfl, h⟩ | ⟨x, rfl, h⟩ | ⟨x, rfl, h⟩
  · exact taken (beq_iff_eq.mpr h)
  · exact taken (bne_iff_ne.mpr h)
  · exact taken (beq_iff_eq.mpr h)
  · exact taken (bne_iff_ne.mpr h)
  · exact taken h
  · exact taken ((Bool.not_eq_true' _).mpr h)

/-- A step that runs a skip which is taken advances `pc` twice, by the fetch and by the skip (R55, R79). -/
theorem step_of_takesSkip {s u : State} {i : Instr} (h : s.coreTurn u) (hr : s.running)
    (hd : decodeWord s.fetchWord = some i) (ht : s.takesSkip i) : step s = .next u.skip.skip := by
  rw [step_of_coreTurn_of_decodeWord h hr hd]
  have hv : u.skip.v = s.v := by rw [coreTurn_eq h]; rfl
  have hk : u.skip.keys = s.keys := by rw [coreTurn_eq h]; rfl
  exact exec_of_takesSkip (takesSkip_congr hv hk ht)

/-- Settles O23: both steps run the same taken skip, since the word fetched, the turn and the condition are the same with
other bytes after the instruction. -/
theorem takenSkipLandsFourOn : Obligations.TakenSkipLandsFourOn := by
  rintro s i b c m ⟨hr, ⟨u, hu⟩, hd⟩ ht rfl
  refine ⟨u.skip.skip, step_of_takesSkip hu hr hd ht, ?_, ?_⟩
  · have hpc : u.pc = s.pc := by rw [coreTurn_eq hu]
    rw [toNat_pc_skip, toNat_pc_skip, hpc]
    omega
  · rw [← fetchWord_setMem_write_next s b c] at hd
    exact step_of_takesSkip (coreTurn_setMem hu _) hr hd (takesSkip_congr rfl rfl ht)

end Sys2Proof.Machine

/-! PROOFS: the register loads, spec/41_register_alu.md R80. -/

namespace Sys2Proof.Machine

/-- `6xnn` is load reg,imm (R56, R80). -/
theorem decodeWord_formatXB_6 (x : Reg) (nn : Byte) : decodeWord (formatXB 0x6 x nn) = some (.ldImm x nn) := by
  simp [decodeWord]

/-- The register written holds the byte (R10). -/
theorem reg_setReg_same (s : State) (x : Reg) (b : Byte) : (s.setReg x b).reg x = b := by
  simp

/-- A register write changes no other register (R10). -/
theorem sameRegsBut_setReg (s : State) (x : Reg) (b : Byte) : s.SameRegsBut (s.setReg x b) [x] := by
  intro r hr
  have hne : r ≠ x := List.ne_of_not_mem_cons hr
  simp [hne]

/-- A register write changes nothing beside the registers (R10). -/
theorem sameBut_setReg (s : State) (x : Reg) (b : Byte) : s.SameBut (s.setReg x b) [.regs] := by
  simp [State.SameBut]

/-- Settles O26: the meaning of `6xnn` is one register write. -/
theorem loadImmediateAssigns : Obligations.LoadImmediateAssigns := by
  intro x nn s
  have hword : wordAXNN 0x6 x nn.toNat = formatXB 0x6 x nn := wordAXNN_eq_formatXB 0x6 x nn
  have hexec : exec (.ldImm x nn) s = .next (s.setReg x nn) := rfl
  exact ⟨hword ▸ decodeWord_formatXB_6 x nn, s.setReg x nn, hexec, reg_setReg_same s x nn, sameRegsBut_setReg s x nn,
    sameBut_setReg s x nn⟩

end Sys2Proof.Machine

/-! PROOFS: the display, spec/43_display.md R110 and R114. An inversion of the machine's step tells the core's `Step` from what
the other agents do; the first changes the display by clear-screen and draw-sprite alone, the second only in a reset. -/

namespace Sys2Proof.Machine

/-! ## Clear-screen (R110) -/

/-- A write of the display changes nothing else (R22). -/
theorem sameBut_setDisp (s : State) (d : Display) : s.SameBut (s.setDisp d) [.disp] := by
  simp [State.SameBut]

/-- Settles O42: the meaning of `00E0` is a write of the unlit display. -/
theorem clearScreenUnlightsEveryDot : Obligations.ClearScreenUnlightsEveryDot := by
  refine ⟨by decide, fun s => ⟨s.setDisp 0#Config.dots, rfl, fun k _ => ?_, sameBut_setDisp s _⟩⟩
  exact BitVec.getLsbD_zero

/-! ## What the core does to the display -/

/-- No instruction but clear-screen and draw-sprite changes a dot (R114). -/
theorem disp_exec {i : Instr} {s t : State} (h : exec i s = .next t) :
    t.disp = s.disp ∨ i = .cls ∨ ∃ x y n, i = .drw x y n := by
  cases i
  case cls => exact .inr (.inl rfl)
  case drw x y n => exact .inr (.inr ⟨x, y, n, rfl⟩)
  case rnd => cases h; exact .inl (by rw [State.disp_setReg, State.drawDone_eq])
  all_goals cases h; exact .inl (by simp [State.skipIf_eq, State.push_eq, State.setRegFlag, State.advanceIndex_eq])

/-- The core's `Step` changes no dot but in a clear-screen or a draw-sprite: neither the fetch nor the exception does (R114). -/
theorem disp_coreStep {s t : State} (h : coreStep s = .next t) :
    t.disp = s.disp ∨ decodeWord s.fetchWord = some .cls ∨ ∃ x y n, decodeWord s.fetchWord = some (.drw x y n) := by
  obtain ⟨-, ⟨i, hi, hexec⟩ | ⟨-, rfl⟩⟩ := coreStep_next h
  · obtain hkept | rfl | ⟨x, y, n, rfl⟩ := disp_exec hexec
    · exact .inl hkept
    · exact .inr (.inl hi)
    · exact .inr (.inr ⟨x, y, n, hi⟩)
  · exact .inl rfl

/-! ## What the other agents do -/

/-- A step that is no reset is the core's `Step`, or else it is an act of another agent or a step that a latched frame passes
over (R4, R176). Such a step changes at most the timers, the remainder of real time, the key inputs, the schedule, the frame in
progress and what was presented. -/
theorem step_next_core_or_host {s t : State} (h : step s = .next t) (hr : ¬ s.resetNext) :
    (∃ u, s.coreTurn u ∧ coreStep u = .next t) ∨
    t = { s with dt := t.dt, st := t.st, tickAcc := t.tickAcc, keys := t.keys, schedule := t.schedule,
                 frameLeft := t.frameLeft, presented := t.presented } := by
  obtain ⟨left, hl, hpart⟩ | ⟨hl, hs, hcore⟩ | ⟨hl, e, rest, hs, hevent⟩ := step_next h
  · obtain ⟨ks, rest, rfl, rfl⟩ | ⟨rest, rfl, hstep⟩ | ⟨rfl, rfl⟩ := framePart_next hpart
    · exact .inr rfl
    · obtain ⟨-, rfl⟩ | hcore := frameStep_next hstep
      · exact .inr rfl
      · exact .inl ⟨_, .inr (.inr ⟨rest, hl, rfl⟩), hcore⟩
    · exact .inr rfl
  · exact .inl ⟨s, .inl ⟨hl, hs, rfl⟩, hcore⟩
  · obtain ⟨rfl, hcore⟩ | ⟨rfl, rfl⟩ | ⟨d, inputs, rfl, -, rfl⟩ | ⟨ks, rfl, rfl⟩ | ⟨rom, rfl, -⟩ := runEvent_next hevent
    · exact .inl ⟨_, .inr (.inl ⟨rest, hl, hs, rfl⟩), hcore⟩
    · exact .inr rfl
    · rw [State.beginFrame_eq, State.elapse_eq]
      exact .inr rfl
    · exact .inr rfl
    · exact absurd ⟨hl, rom, rest, hs⟩ hr

/-! ## The display persists (R114) -/

/-- Where the core's `Step` is taken, it runs the instruction that the word at `pc` stands for. -/
theorem runsNext_of_coreStep {s u t : State} {i : Instr} (hu : s.coreTurn u) (h : coreStep u = .next t)
    (hd : decodeWord u.fetchWord = some i) : s.runsNext i := by
  have hrun : u.fault = none := (coreStep_next h).1
  have hfault : u.fault = s.fault := by rw [coreTurn_eq hu]
  exact ⟨hfault.symm.trans hrun, ⟨u, hu⟩, fetchWord_coreTurn hu ▸ hd⟩

/-- Settles O46: only the core's `Step` can change a dot, and it does so by the two instructions alone. -/
theorem displayPersists : Obligations.DisplayPersists := by
  intro s t h hr
  obtain ⟨u, hu, hcore⟩ | hhost := step_next_core_or_host h hr
  · obtain hkept | hcls | ⟨x, y, n, hdrw⟩ := disp_coreStep hcore
    · have hturn : u.disp = s.disp := by rw [coreTurn_eq hu]
      exact .inl (hkept.trans hturn)
    · exact .inr (.inl (runsNext_of_coreStep hu hcore hcls))
    · exact .inr (.inr ⟨x, y, n, runsNext_of_coreStep hu hcore hdrw⟩)
  · exact .inl (by rw [hhost])

end Sys2Proof.Machine

/-! PROOFS: the encoding, spec/30_encoding.md R50 to R58. A word is made of its fields, so an encoding and a decoding undo each
other; and the rows of the opcode map and the table of unknown words are read off the fields. -/

namespace Sys2Proof

/-! ## A word is made of its fields (R51, R53) -/

/-- Every word is its major opcode and an address (R53, format A). -/
theorem formatA_fields (op : Opcode) : formatA (fieldA op) (fieldNNN op) = op := by
  have := op.isLt
  apply BitVec.eq_of_toNat_eq
  rw [toNat_formatA, toNat_fieldA, toNat_fieldNNN]; omega

/-- Every word is its major opcode, a register and a byte (R53, format XB). -/
theorem formatXB_fields (op : Opcode) : formatXB (fieldA op) (fieldX op) (fieldNN op) = op := by
  have := op.isLt
  apply BitVec.eq_of_toNat_eq
  rw [toNat_formatXB, toNat_fieldA, val_fieldX, toNat_fieldNN]; omega

/-- Format X is format XB with a fixed low byte (R53). -/
theorem formatX_fields (op : Opcode) : formatX (fieldA op) (fieldX op) (fieldNN op) = op := formatXB_fields op

/-- Every word is its major opcode, two registers and a low nibble (R53, format XYN). -/
theorem formatXY_fields (op : Opcode) : formatXY (fieldA op) (fieldX op) (fieldY op) (fieldN op) = op := by
  have := op.isLt
  apply BitVec.eq_of_toNat_eq
  rw [toNat_formatXY, toNat_fieldA, val_fieldX, val_fieldY, toNat_fieldN]; omega

/-! ## Decoding undoes encoding (R56) -/

/-- A sprite height that fits its field is read back from it (R52). -/
theorem toNat_ofNat_of_le_15 {n : Nat} (h : n ≤ 15) : (BitVec.ofNat 4 n).toNat = n := by
  rw [BitVec.toNat_ofNat]; omega

/-- The encoding of a well-formed instruction decodes to it (R56). -/
theorem decodeWord_encode {i : Instr} (h : WellFormed i) : decodeWord (encode i) = some i := by
  cases i
  case cls => decide
  case ret => decide
  case drw x y n =>
    have hn : n ≤ 15 := of_decide_eq_true h
    simp [encode, decodeWord, toNat_ofNat_of_le_15 hn]
  case seReg | sneReg => simp [encode, decodeWord, decodeLow0]
  case ldReg | or | and | xor | addReg | sub | shr | subn | shl => simp [encode, decodeWord, decodeMajor8]
  case skp | sknp => simp [encode, decodeWord, decodeMajorE]
  case ldVxDt | ldDtVx | ldStVx | addI | ldF | ldB | ldMemVx | ldVxMem => simp [encode, decodeWord, decodeMajorF]
  all_goals simp [encode, decodeWord]

/-- The bytes of a word that decodes are the instruction, and the bytes after it are left (R34, R55). -/
theorem decode_bytesOfWord {op : Opcode} {i : Instr} (h : decodeWord op = some i) (rest : List Byte) :
    decode (bytesOfWord op ++ rest) = .instr i rest := by
  simp [bytesOfWord, decode, h]

/-- Settles O2: the fields of a format's word are the operands it was built of. -/
theorem decodeInvertsEncode : Obligations.DecodeInvertsEncode :=
  fun _ rest h => ⟨decodeWord_encode h, decode_bytesOfWord (decodeWord_encode h) rest⟩

/-! ## Encoding undoes decoding (R56) -/

/-- What the major opcode 0 decodes to, is encoded in the word's address field. -/
theorem encode_decodeMajor0 {nnn : Addr} {i : Instr} (h : decodeMajor0 nnn = some i) :
    WellFormed i ∧ encode i = formatA 0x0 nnn := by
  unfold decodeMajor0 at h
  split at h
  · rename_i hn; cases h; subst hn; exact ⟨rfl, by decide⟩
  split at h
  · rename_i hn; cases h; subst hn; exact ⟨rfl, by decide⟩
  · cases h

/-- What major opcodes 5 and 9 decode to has the low nibble 0. -/
theorem eq_of_decodeLow0 {n : BitVec 4} {i j : Instr} (h : decodeLow0 n i = some j) : n = 0 ∧ j = i := by
  unfold decodeLow0 at h
  split at h
  · rename_i hn; cases h; exact ⟨hn, rfl⟩
  · cases h

/-- What the major opcode 8 decodes to is encoded by its low nibble. -/
theorem encode_decodeMajor8 {x y : Reg} {n : BitVec 4} {i : Instr} (h : decodeMajor8 x y n = some i) :
    WellFormed i ∧ encode i = formatXY 0x8 x y n := by
  unfold decodeMajor8 at h
  split at h <;> cases h <;> exact ⟨rfl, rfl⟩

/-- What the major opcode E decodes to is encoded by its low byte. -/
theorem encode_decodeMajorE {x : Reg} {nn : Byte} {i : Instr} (h : decodeMajorE x nn = some i) :
    WellFormed i ∧ encode i = formatX 0xE x nn := by
  unfold decodeMajorE at h
  repeat' split at h
  all_goals cases h
  all_goals subst nn; exact ⟨rfl, rfl⟩

/-- What the major opcode F decodes to is encoded by its low byte. -/
theorem encode_decodeMajorF {x : Reg} {nn : Byte} {i : Instr} (h : decodeMajorF x nn = some i) :
    WellFormed i ∧ encode i = formatX 0xF x nn := by
  unfold decodeMajorF at h
  repeat' split at h
  all_goals cases h
  all_goals subst nn; exact ⟨rfl, rfl⟩

/-- Settles O3: each major opcode's decoding keeps the fields of the word, of which the word is made. -/
theorem encodeInvertsDecode : Obligations.EncodeInvertsDecode := by
  intro op i h
  have hA := formatA_fields op
  have hXB := formatXB_fields op
  have hX := formatX_fields op
  have hXY := formatXY_fields op
  unfold decodeWord at h
  split at h
  next ha => rw [ha] at hA; exact hA ▸ encode_decodeMajor0 h
  next ha => cases h; rw [ha] at hA; exact ⟨rfl, hA⟩
  next ha => cases h; rw [ha] at hA; exact ⟨rfl, hA⟩
  next ha => cases h; rw [ha] at hXB; exact ⟨rfl, hXB⟩
  next ha => cases h; rw [ha] at hXB; exact ⟨rfl, hXB⟩
  next ha => obtain ⟨hn, rfl⟩ := eq_of_decodeLow0 h; rw [ha, hn] at hXY; exact ⟨rfl, hXY⟩
  next ha => cases h; rw [ha] at hXB; exact ⟨rfl, hXB⟩
  next ha => cases h; rw [ha] at hXB; exact ⟨rfl, hXB⟩
  next ha => rw [ha] at hXY; exact hXY ▸ encode_decodeMajor8 h
  next ha => obtain ⟨hn, rfl⟩ := eq_of_decodeLow0 h; rw [ha, hn] at hXY; exact ⟨rfl, hXY⟩
  next ha => cases h; rw [ha] at hA; exact ⟨rfl, hA⟩
  next ha => cases h; rw [ha] at hA; exact ⟨rfl, hA⟩
  next ha => cases h; rw [ha] at hXB; exact ⟨rfl, hXB⟩
  next ha =>
    cases h; rw [ha] at hXY
    exact ⟨decide_eq_true (by omega), by rw [encode, BitVec.ofNat_toNat, BitVec.setWidth_eq]; exact hXY⟩
  next ha => rw [ha] at hX; exact hX ▸ encode_decodeMajorE h
  next =>
    have ha : fieldA op = 0xF := by simp only [imp_false] at *; bv_omega
    rw [ha] at hX; exact hX ▸ encode_decodeMajorF h

/-! ## The words rejected (R58) -/

theorem decodeMajor0_eq_none {nnn : Addr} : decodeMajor0 nnn = none ↔ nnn.toNat ≠ 0x0E0 ∧ nnn.toNat ≠ 0x0EE := by
  simp [decodeMajor0, BitVec.toNat_eq, ite_eq_iff]

theorem decodeLow0_eq_none {n : BitVec 4} {i : Instr} : decodeLow0 n i = none ↔ n.toNat ≠ 0 := by
  simp [decodeLow0, BitVec.toNat_eq]

theorem decodeMajor8_eq_none {x y : Reg} {n : BitVec 4} :
    decodeMajor8 x y n = none ↔ 8 ≤ n.toNat ∧ n.toNat ≠ 0xE := by
  unfold decodeMajor8
  split
  case h_10 => simp only [imp_false] at *; simp; bv_omega
  all_goals simp

theorem decodeMajorE_eq_none {x : Reg} {nn : Byte} : decodeMajorE x nn = none ↔ nn.toNat ∉ [0x9E, 0xA1] := by
  simp [decodeMajorE, BitVec.toNat_eq, ite_eq_iff]

theorem decodeMajorF_eq_none {x : Reg} {nn : Byte} :
    decodeMajorF x nn = none ↔ nn.toNat ∉ [0x07, 0x15, 0x18, 0x1E, 0x29, 0x33, 0x55, 0x65] := by
  simp [decodeMajorF, BitVec.toNat_eq, ite_eq_iff]

/-- Settles O5: by major opcode, each of which rejects by the minor field it looks at. -/
theorem rejectedWordsAreThoseListed : Obligations.RejectedWordsAreThoseListed := by
  intro op
  have hA := toNat_fieldA op
  have hN := toNat_fieldN op
  have hNN := toNat_fieldNN op
  have hNNN := toNat_fieldNNN op
  unfold decodeWord
  rw [← hA, ← hN, ← hNN, ← hNNN]
  split
  next ha => simp [ha, decodeMajor0_eq_none]
  next ha => simp [ha]
  next ha => simp [ha]
  next ha => simp [ha]
  next ha => simp [ha]
  next ha => simp [ha, decodeLow0_eq_none]
  next ha => simp [ha]
  next ha => simp [ha]
  next ha => simp [ha, decodeMajor8_eq_none]
  next ha => simp [ha, decodeLow0_eq_none]
  next ha => simp [ha]
  next ha => simp [ha]
  next ha => simp [ha]
  next ha => simp [ha]
  next ha => simp [ha, decodeMajorE_eq_none]
  next =>
    have ha : fieldA op = 0xF := by simp only [imp_false] at *; bv_omega
    simp [ha, decodeMajorF_eq_none]

/-! ## The rows of the opcode map (R56) -/

/-- The word of a well-formed instruction matches a row of the opcode map (R56). -/
theorem encodesRow : ∀ i : Instr, Laws.EncodesRow.Statement i
  | .cls => Laws.EncodesRow.cls
  | .ret => Laws.EncodesRow.ret
  | .jp nnn => Laws.EncodesRow.jp nnn
  | .call nnn => Laws.EncodesRow.call nnn
  | .seImm x nn => Laws.EncodesRow.seImm x nn
  | .sneImm x nn => Laws.EncodesRow.sneImm x nn
  | .seReg x y => Laws.EncodesRow.seReg x y
  | .ldImm x nn => Laws.EncodesRow.ldImm x nn
  | .addImm x nn => Laws.EncodesRow.addImm x nn
  | .ldReg x y => Laws.EncodesRow.ldReg x y
  | .or x y => Laws.EncodesRow.or x y
  | .and x y => Laws.EncodesRow.and x y
  | .xor x y => Laws.EncodesRow.xor x y
  | .addReg x y => Laws.EncodesRow.addReg x y
  | .sub x y => Laws.EncodesRow.sub x y
  | .shr x y => Laws.EncodesRow.shr x y
  | .subn x y => Laws.EncodesRow.subn x y
  | .shl x y => Laws.EncodesRow.shl x y
  | .sneReg x y => Laws.EncodesRow.sneReg x y
  | .ldI nnn => Laws.EncodesRow.ldI nnn
  | .jpV0 nnn => Laws.EncodesRow.jpV0 nnn
  | .rnd x nn => Laws.EncodesRow.rnd x nn
  | .drw x y n => Laws.EncodesRow.drw x y n
  | .skp x => Laws.EncodesRow.skp x
  | .sknp x => Laws.EncodesRow.sknp x
  | .ldVxDt x => Laws.EncodesRow.ldVxDt x
  | .ldDtVx x => Laws.EncodesRow.ldDtVx x
  | .ldStVx x => Laws.EncodesRow.ldStVx x
  | .addI x => Laws.EncodesRow.addI x
  | .ldF x => Laws.EncodesRow.ldF x
  | .ldB x => Laws.EncodesRow.ldB x
  | .ldMemVx x => Laws.EncodesRow.ldMemVx x
  | .ldVxMem x => Laws.EncodesRow.ldVxMem x

/-- A field that a row's mask keeps is, in every word that matches the row, what it is in the row's pattern (R56). -/
theorem extract_of_accepts {op : Opcode} {r : OpcodeRow} (h : r.accepts op = true) {k w : Nat}
    (hm : r.mask.extractLsb' k w = BitVec.allOnes w) : op.extractLsb' k w = r.pattern.extractLsb' k w := by
  have hrow : op &&& r.mask = r.pattern := beq_iff_eq.mp h
  rw [← hrow, BitVec.extractLsb'_and, hm, BitVec.and_allOnes]

/-- Whether a word decodes is decided by its major opcode and, under some major opcodes, one minor field (R57, R58). -/
theorem decodeWord_eq_none_congr {op p : Opcode} (hA : fieldA op = fieldA p)
    (hNNN : fieldA p = 0x0 → fieldNNN op = fieldNNN p) (hN : fieldA p ∈ [0x5, 0x8, 0x9] → fieldN op = fieldN p)
    (hNN : fieldA p ∈ [0xE, 0xF] → fieldNN op = fieldNN p) : decodeWord op = none ↔ decodeWord p = none := by
  have major {a : Nat} (ha : p.toNat / 4096 = a) (hlt : a < 16) : fieldA p = BitVec.ofNat 4 a := by
    apply BitVec.eq_of_toNat_eq; rw [toNat_fieldA, ha, BitVec.toNat_ofNat]; omega
  rw [rejectedWordsAreThoseListed op, rejectedWordsAreThoseListed p]
  simp only [← toNat_fieldA op, ← toNat_fieldNNN, ← toNat_fieldN, ← toNat_fieldNN, hA, toNat_fieldA p]
  refine or_congr (and_congr_right fun ha => ?_) (or_congr (and_congr_right fun ha => ?_)
    (or_congr (and_congr_right fun ha => ?_) (or_congr (and_congr_right fun ha => ?_)
      (or_congr (and_congr_right fun ha => ?_) (and_congr_right fun ha => ?_)))))
  · rw [hNNN (major ha (by decide))]
  · rw [hN (by simp [major ha])]
  · rw [hN (by simp [major ha])]
  · rw [hN (by simp [major ha])]
  · rw [hNN (by simp [major ha])]
  · rw [hNN (by simp [major ha])]

/-- Each row's pattern decodes, and its mask keeps the major opcode and the minor field that decides (R56). -/
theorem opcodeRows_masks : ∀ r ∈ opcodeRows,
    decodeWord r.pattern ≠ none ∧ fieldA r.mask = BitVec.allOnes 4 ∧
    (fieldA r.pattern = 0x0 → fieldNNN r.mask = BitVec.allOnes 12) ∧
    (fieldA r.pattern ∈ [0x5, 0x8, 0x9] → fieldN r.mask = BitVec.allOnes 4) ∧
    (fieldA r.pattern ∈ [0xE, 0xF] → fieldNN r.mask = BitVec.allOnes 8) := by decide

/-- A word that matches a row decodes (R56, R57). -/
theorem decodeWord_ne_none_of_accepts {op : Opcode} {r : OpcodeRow} (hr : r ∈ opcodeRows) (h : r.accepts op = true) :
    decodeWord op ≠ none := by
  obtain ⟨hp, hA, hNNN, hN, hNN⟩ := opcodeRows_masks r hr
  have hcongr := decodeWord_eq_none_congr (extract_of_accepts h hA) (fun ha => extract_of_accepts h (hNNN ha))
    (fun ha => extract_of_accepts h (hN ha)) (fun ha => extract_of_accepts h (hNN ha))
  exact fun hn => hp (hcongr.mp hn)

/-- Two rows whose patterns agree wherever both masks look are one row (R56). -/
theorem opcodeRows_disjoint : ∀ j k : Fin opcodeRows.length,
    (opcodeRows.get j).pattern &&& (opcodeRows.get k).mask = (opcodeRows.get k).pattern &&& (opcodeRows.get j).mask →
    j = k := by
  decide +kernel

/-- A word that matches two rows makes their patterns agree wherever both masks look. -/
theorem patterns_agree_of_accepts {op : Opcode} {r q : OpcodeRow} (hr : r.accepts op = true) (hq : q.accepts op = true) :
    r.pattern &&& q.mask = q.pattern &&& r.mask := by
  have hr : op &&& r.mask = r.pattern := beq_iff_eq.mp hr
  have hq : op &&& q.mask = q.pattern := beq_iff_eq.mp hq
  rw [← hr, ← hq, BitVec.and_assoc, BitVec.and_assoc, BitVec.and_comm r.mask]

/-- Settles O4: a word that decodes is an encoding, which matches its row, and a row fixes the fields the decoder looks at. -/
theorem decoderAcceptsExactlyTheRows : Obligations.DecoderAcceptsExactlyTheRows := by
  refine ⟨fun op => ⟨fun h => ?_, fun ⟨r, hr, h⟩ => ?_⟩, fun op j k hj hk => ?_⟩
  · obtain ⟨i, hi⟩ := Option.isSome_iff_exists.mp h
    obtain ⟨hwf, hop⟩ := encodeInvertsDecode op i hi
    exact hop ▸ encodesRow i hwf
  · exact Option.isSome_iff_ne_none.mpr (decodeWord_ne_none_of_accepts hr h)
  · exact opcodeRows_disjoint j k (patterns_agree_of_accepts hj hk)

/-- Settles O1: each word is a literal, so the decoder is evaluated. -/
theorem decodesWordsOfTheSpec : Obligations.DecodesWordsOfTheSpec := by
  unfold Obligations.DecodesWordsOfTheSpec
  decide

end Sys2Proof

/-! PROOFS: one transition of the machine, spec/30_encoding.md R55, spec/60_exceptions.md R140 to R145, spec/70_reset_and_hazards.md
R176. The inversion of a step into its cases is said once; the fault latch, `sp`, the delay timer, the presentation and the
invariant are read off it. -/

namespace Sys2Proof.Machine

/-! ## Which transition a step is (R4) -/

/-- What a step from `s` to `t` can be: the core's `Step`, or one of the acts of the other agents. -/
inductive StepCase (s t : State) : Prop where
  | core (u : State) (hu : s.coreTurn u) (h : coreStep u = .next t)
  | passedOver (rest : List (Option Keys)) (hl : s.frameLeft = some (none :: rest)) (hf : s.fault ≠ none)
      (h : t = s.setFrameLeft (some rest))
  | frameKeys (ks : Keys) (rest : List (Option Keys)) (hl : s.frameLeft = some (some ks :: rest))
      (h : t = (s.setFrameLeft (some (none :: rest))).setKeys ks)
  | presents (hl : s.presentNext) (h : t = (s.setFrameLeft none).present)
  | tick (rest : List Event) (hs : s.schedule = .tick :: rest) (h : t = (s.setSchedule rest).tick)
  | beginFrame (d : Rat) (inputs : Vector (Option Keys) Config.instrPerFrame) (rest : List Event) (hd : 0 ≤ d)
      (h : t = (s.setSchedule rest).beginFrame d inputs)
  | keys (ks : Keys) (rest : List Event) (h : t = (s.setSchedule rest).setKeys ks)
  | reset (rom : List Byte) (rest : List Event) (hr : s.resetNext) (h : t = (s.setSchedule rest).load rom)

/-- Every step is one of these cases (R4). -/
theorem stepCase_of_step {s t : State} (h : step s = .next t) : StepCase s t := by
  obtain ⟨left, hl, hpart⟩ | ⟨hl, hs, hcore⟩ | ⟨hl, e, rest, hs, hevent⟩ := step_next h
  · obtain ⟨ks, rest, rfl, rfl⟩ | ⟨rest, rfl, hstep⟩ | ⟨rfl, rfl⟩ := framePart_next hpart
    · exact .frameKeys ks rest hl rfl
    · obtain ⟨hf, rfl⟩ | hcore := frameStep_next hstep
      · exact .passedOver rest hl hf rfl
      · exact .core _ (.inr (.inr ⟨rest, hl, rfl⟩)) hcore
    · exact .presents hl rfl
  · exact .core s (.inl ⟨hl, hs, rfl⟩) hcore
  · obtain ⟨rfl, hcore⟩ | ⟨rfl, rfl⟩ | ⟨d, inputs, rfl, hd, rfl⟩ | ⟨ks, rfl, rfl⟩ | ⟨rom, rfl, -, rfl⟩ := runEvent_next hevent
    · exact .core _ (.inr (.inl ⟨rest, hl, hs, rfl⟩)) hcore
    · exact .tick rest hs rfl
    · exact .beginFrame d inputs rest hd rfl
    · exact .keys ks rest rfl
    · exact .reset rom rest ⟨hl, rom, rest, hs⟩ rfl

/-! ## Real time (R175) -/

/-- `n` periods and a remainder below one make up any non-negative time (R175, D26). -/
theorem tickTime_ticksIn_le {t : Rat} (ht : 0 ≤ t) : tickTime (ticksIn t) ≤ t ∧ t - tickTime (ticksIn t) < 1 / 60 := by
  have hle : (⌊t * 60⌋₊ : Rat) ≤ t * 60 := Nat.floor_le (by positivity)
  have hlt : t * 60 < (⌊t * 60⌋₊ : Rat) + 1 := Nat.lt_floor_add_one _
  rw [State.ticksIn_eq, tickTime, Config.tickHz]
  constructor <;> push_cast <;> linarith

/-- The remainder that real time leaves is that of the whole time (R175). -/
theorem tickAcc_elapse (s : State) (d : Rat) :
    (s.elapse d).tickAcc = s.tickAcc + d - tickTime (ticksIn (s.tickAcc + d)) := rfl

/-- Real time leaves less than one period carried (R23, R175). -/
theorem tickAcc_elapse_bounds {s : State} {d : Rat} (hs : 0 ≤ s.tickAcc) (hd : 0 ≤ d) :
    0 ≤ (s.elapse d).tickAcc ∧ (s.elapse d).tickAcc < 1 / 60 := by
  obtain ⟨hle, hlt⟩ := tickTime_ticksIn_le (add_nonneg hs hd)
  exact ⟨sub_nonneg.mpr hle, hlt⟩

/-! ## The invariant (R25) -/

/-- The invariant holds in `t`, and `t` has the OPEN parameters of `s`. -/
structure State.InvFrom (s t : State) : Prop where
  inv    : t.Inv
  params : t.params = s.params
  font   : t.mem.font = s.mem.font

/-- The invariant looks at memory, the remainder, the frame in progress and the parameters only. -/
theorem invFrom_of_fields {s t : State} (hs : s.Inv) (hmem : t.mem = s.mem) (hacc : t.tickAcc = s.tickAcc)
    (hleft : ∀ left, t.frameLeft = some left → left.length ≤ 8) (hpar : t.params = s.params) : s.InvFrom t where
  inv := ⟨hmem ▸ hs.memWf, hacc ▸ hs.accNonneg, hacc ▸ hs.accBelow, hleft, hpar ▸ hs.paramsLegal⟩
  params := hpar
  font := congrArg _ hmem

/-- What is left of a frame after a part of it is no longer than before. -/
theorem frameBound_of_length_le {s : State} (hs : s.Inv) {left rest : List (Option Keys)} (hl : s.frameLeft = some left)
    (hle : rest.length ≤ left.length) : ∀ l, some rest = some l → l.length ≤ 8 := by
  rintro _ ⟨rfl⟩
  exact hle.trans (hs.frameBound left hl)

/-- Taking the turn keeps the invariant: a frame in progress owes one step less. -/
theorem invFrom_coreTurn {s u : State} (hs : s.Inv) (h : s.coreTurn u) : s.InvFrom u := by
  rcases h with ⟨-, -, rfl⟩ | ⟨rest, -, -, rfl⟩ | ⟨rest, hl, rfl⟩
  · exact ⟨hs, rfl, rfl⟩
  · exact invFrom_of_fields hs rfl rfl hs.frameBound rfl
  · exact invFrom_of_fields hs rfl rfl (frameBound_of_length_le hs hl (Nat.le_succ _)) rfl

/-- No instruction breaks the invariant (spec/10_state.md section 11). -/
theorem invFrom_exec {i : Instr} {s t : State} (hs : s.Inv) (h : exec i s = .next t) : s.InvFrom t := by
  obtain ⟨⟨-, hacc, -, -, hleft, -, hpar, hfont⟩, hwf⟩ := exec_keeps h
  exact ⟨⟨hwf hs.memWf, hacc ▸ hs.accNonneg, hacc ▸ hs.accBelow, hleft ▸ hs.frameBound, hpar ▸ hs.paramsLegal⟩, hpar, hfont⟩

/-- The core's `Step` keeps the invariant: the fetch and the exception touch none of its fields (R55, R141). -/
theorem invFrom_coreStep {s t : State} (hs : s.Inv) (h : coreStep s = .next t) : s.InvFrom t := by
  have hskip : s.InvFrom s.skip := invFrom_of_fields hs rfl rfl hs.frameBound rfl
  obtain ⟨-, ⟨i, -, hexec⟩ | ⟨-, rfl⟩⟩ := coreStep_next h
  · obtain ⟨hinv, hpar, hfont⟩ := invFrom_exec hskip.inv hexec
    exact ⟨hinv, hpar, hfont⟩
  · exact invFrom_of_fields hs rfl rfl hs.frameBound rfl

/-- The beginning of a frame keeps the invariant: less than a period stays carried, and eight steps are owed (R175, R176). -/
theorem invFrom_beginFrame {s : State} (hs : s.Inv) {d : Rat} (hd : 0 ≤ d)
    (inputs : Vector (Option Keys) Config.instrPerFrame) : s.InvFrom (s.beginFrame d inputs) := by
  obtain ⟨hnonneg, hbelow⟩ := tickAcc_elapse_bounds hs.accNonneg hd
  rw [State.beginFrame_eq, State.elapse_eq]
  refine ⟨⟨hs.memWf, hnonneg, hbelow, ?_, hs.paramsLegal⟩, rfl, rfl⟩
  rintro _ ⟨rfl⟩
  exact (Vector.length_toList (xs := inputs)).le

/-- The memory after a reset keeps the font: only bytes are written (R3, R170). -/
theorem font_load (s : State) (rom : List Byte) : (s.load rom).mem.font = s.mem.font := by
  rw [State.load, Memory.font_writeBytes, Memory.font_cleared]

/-- A reset meets the invariant, whatever held before it, with the parameters as they were (R24, R170). -/
theorem invFrom_load {s : State} (hs : s.params.legal) (rom : List Byte) : s.InvFrom (s.load rom) where
  inv := ⟨Memory.wf_writeBytes (Memory.wf_cleared _) _ _, le_rfl, by norm_num [State.load, State.initial], nofun, hs⟩
  params := rfl
  font := font_load s rom

/-- Settles O60: by the case of the step. -/
theorem everyStepKeepsTheInvariant : Obligations.EveryStepKeepsTheInvariant := by
  intro s t hs h
  suffices hfrom : s.InvFrom t from ⟨hfrom.inv, hfrom.params, hfrom.font⟩
  cases stepCase_of_step h with
  | core u hu h =>
    obtain ⟨huinv, hupar, hufont⟩ := invFrom_coreTurn hs hu
    obtain ⟨hinv, hpar, hfont⟩ := invFrom_coreStep huinv h
    exact ⟨hinv, hpar.trans hupar, hfont.trans hufont⟩
  | passedOver rest hl hf h =>
    exact h ▸ invFrom_of_fields hs rfl rfl (frameBound_of_length_le hs hl (Nat.le_succ _)) rfl
  | frameKeys ks rest hl h =>
    exact h ▸ invFrom_of_fields hs rfl rfl (frameBound_of_length_le hs hl le_rfl) rfl
  | presents hl h => exact h ▸ invFrom_of_fields hs rfl rfl nofun rfl
  | tick rest hs' h => exact h ▸ invFrom_of_fields hs rfl rfl hs.frameBound rfl
  | beginFrame d inputs rest hd h =>
    have hsched : (s.setSchedule rest).Inv := (invFrom_of_fields (t := s.setSchedule rest) hs rfl rfl hs.frameBound rfl).inv
    obtain ⟨hinv, hpar, hfont⟩ := invFrom_beginFrame hsched hd inputs
    exact h ▸ ⟨hinv, hpar, hfont⟩
  | keys ks rest h => exact h ▸ invFrom_of_fields hs rfl rfl hs.frameBound rfl
  | reset rom rest hr h =>
    obtain ⟨hinv, hpar, hfont⟩ := invFrom_load (s := s.setSchedule rest) hs.paramsLegal rom
    exact h ▸ ⟨hinv, hpar, hfont⟩

/-- Settles O59: nothing is listed, carried or owed after a reset. -/
theorem resetMeetsTheInvariant : Obligations.ResetMeetsTheInvariant := by
  have initial (font : Font) (p : Params) (hp : p.legal) : (State.initial font p).Inv :=
    ⟨Memory.wf_cleared ⟨font, []⟩, le_rfl, by norm_num [State.initial], nofun, hp⟩
  exact ⟨initial defaultFont defaultParams (by decide), initial⟩

end Sys2Proof.Machine

/-! PROOFS: what a step of the core does and what the other agents leave alone, spec/30_encoding.md R55, spec/60_exceptions.md R140
to R152, spec/10_state.md R16. -/

namespace Sys2Proof.Machine

/-! ## Instructions complete (R143) -/

/-- Every meaning answers a next state (R143). -/
theorem exec_total (i : Instr) (s : State) : ∃ t, exec i s = .next t := by
  cases i <;> exact ⟨_, rfl⟩

/-- Settles O10: each meaning ends in `next`, and no instruction touches the latch. -/
theorem everyInstructionCompletes : Obligations.EveryInstructionCompletes := by
  intro i s
  obtain ⟨t, ht⟩ := exec_total i s
  obtain ⟨⟨hfault, -⟩, -⟩ := exec_keeps ht
  exact ⟨t, ht, hfault⟩

/-! ## The core's Step (R55, R141, R142) -/

/-- The fetch leaves `pc` two on, as a number modulo 4096 (R55). -/
theorem skip_coreTurn {s u : State} (h : s.coreTurn u) : u.skip = u.setPc (BitVec.ofNat 12 (s.pc.toNat + 2)) := by
  have hpc : u.pc = s.pc := by rw [coreTurn_eq h]
  rw [State.skip_eq, hpc]; rfl

/-- Settles O6: the turn leaves `pc` and the word fetched alone. -/
theorem stepRunsTheDecodedInstruction : Obligations.StepRunsTheDecodedInstruction := by
  intro s u i hu hr hd
  rw [step_of_coreTurn_of_decodeWord hu hr hd, skip_coreTurn hu]

/-- With the latch clear and a word of no row, the core's `Step` raises the exception (R141). -/
theorem coreStep_of_decodeWord_none {s : State} (hr : s.running) (hd : decodeWord s.fetchWord = none) :
    coreStep s = .next (s.skip.raiseUnknownOpcode s.fetchWord s.pc) := by
  have hf : s.fault = none := hr
  simp [coreStep, hf, hd]

/-- A safe run begins with the latch clear (R142). -/
theorem running_of_safeFor {n : Nat} {s : State} (h : SafeFor n s) : s.running := by
  obtain ⟨_, ⟨⟩, hr⟩ := h 0 (Nat.zero_le _)
  exact hr

/-- Settles O7: the exception sets the latch, and a safe run would need it clear. -/
theorem unknownWordSetsTheLatch : Obligations.UnknownWordSetsTheLatch := by
  intro s u hu hr hd
  have hpc : u.pc = s.pc := by rw [coreTurn_eq hu]
  have hstep : step s = .next (u.skip.raiseUnknownOpcode s.fetchWord s.pc) := by
    rw [step_of_coreTurn hu hr, coreStep_of_decodeWord_none (running_coreTurn hu hr) (fetchWord_coreTurn hu ▸ hd),
      fetchWord_coreTurn hu, hpc]
  refine ⟨?_, fun n hsafe => ?_⟩
  · rw [hstep, skip_coreTurn hu]; rfl
  · obtain ⟨-, t, ht, hsafe⟩ := (safeFor_succ n s).mp hsafe
    cases hstep.symm.trans ht
    cases running_of_safeFor hsafe

/-- With the latch set the core has no `Step` (R142). -/
theorem coreStep_of_fault {s : State} {c : UnknownOpcode} (hf : s.fault = some c) : coreStep s = .fault (.coreStopped c) := by
  simp [coreStep, hf]

/-- With the latch set a frame's step does nothing (R176). -/
theorem frameStep_of_fault {s : State} (hf : s.fault ≠ none) : frameStep s = .next s := by
  simp [frameStep, Option.isSome_iff_ne_none.mpr hf]

/-- Settles O8: by the turn that is taken. -/
theorem latchedCoreHasNoStep : Obligations.LatchedCoreHasNoStep := by
  intro s c hf
  have hne : s.fault ≠ none := hf ▸ Option.some_ne_none c
  refine ⟨fun hl hs => ?_, fun rest hl hs => ?_, fun rest hl => ?_, fun rest hl hs => ?_, fun r k n hk hr hsafe => ?_⟩
  · rw [step_of_schedule_nil hl hs, coreStep_of_fault hf]
  · rw [step_of_schedule_cons hl hs]
    exact coreStep_of_fault hf
  · rw [step_of_frameLeft hl]
    exact frameStep_of_fault hne
  · rw [step_of_schedule_cons hl hs]; rfl
  · obtain ⟨t, ht, hrun⟩ := hsafe k hk
    cases hr.symm.trans ht
    exact hne hrun

/-! ## What the fault latch stops (R142) -/

/-- Settles O9: with the latch set the core has no step, and no other agent touches the program's state. -/
theorem latchStaysUntilReset : Obligations.LatchStaysUntilReset := by
  intro s t c hf hnr h
  obtain ⟨u, hu, hcore⟩ | hhost := step_next_core_or_host h hnr
  · have hfault : u.fault = some c := by rw [coreTurn_eq hu]; exact hf
    rw [coreStep_of_fault hfault] at hcore
    cases hcore
  · rw [hhost]
    exact ⟨hf, fun _ => rfl, fun _ => rfl, rfl, rfl, rfl, rfl⟩

/-! ## What moves `sp` (R16) -/

/-- No instruction but call and return moves `sp`, and they move it by one entry (R16, R70, R72). -/
theorem sp_exec {i : Instr} {s t : State} (h : exec i s = .next t) :
    t.sp = s.sp ∨ ((∃ nnn, i = .call nnn) ∧ t.sp = s.sp + 1) ∨ (i = .ret ∧ t.sp = s.sp - 1) := by
  cases i
  case call nnn => cases h; exact .inr (.inl ⟨⟨nnn, rfl⟩, rfl⟩)
  case ret => cases h; exact .inr (.inr ⟨rfl, rfl⟩)
  case rnd => cases h; exact .inl (by rw [State.sp_setReg, State.drawDone_eq])
  all_goals cases h; exact .inl (by simp [State.skipIf_eq, State.setRegFlag, State.advanceIndex_eq])

/-- One entry up, as a number modulo 16 (R16). -/
theorem toNat_sp_add_one (k : BitVec 4) : (k + 1).toNat = (k.toNat + 1) % 16 := BitVec.toNat_add k 1

/-- One entry down, as a number modulo 16 (R16). -/
theorem toNat_sp_sub_one (k : BitVec 4) : (k - 1).toNat = (k.toNat + 15) % 16 := by
  rw [BitVec.toNat_sub]; simp only [BitVec.reduceToNat]; omega

/-- Settles O25: only the core's `Step` can move `sp`, and it does so by the two instructions alone. -/
theorem onlyCallAndReturnMoveSp : Obligations.OnlyCallAndReturnMoveSp := by
  intro s t h hnr
  obtain ⟨u, hu, hcore⟩ | hhost := step_next_core_or_host h hnr
  · have hsp : u.skip.sp = s.sp := by rw [coreTurn_eq hu]; rfl
    obtain ⟨-, ⟨i, hi, hexec⟩ | ⟨-, rfl⟩⟩ := coreStep_next hcore
    · have hnext := runsNext_of_coreStep hu hcore hi
      obtain hkept | ⟨⟨nnn, rfl⟩, hup⟩ | ⟨rfl, hdown⟩ := sp_exec hexec
      · exact .inl (hkept.trans hsp)
      · exact .inr (.inl ⟨⟨nnn, hnext⟩, by rw [hup, hsp, toNat_sp_add_one]⟩)
      · exact .inr (.inr ⟨hnext, by rw [hdown, hsp, toNat_sp_sub_one]⟩)
    · exact .inl hsp
  · exact .inl (by rw [hhost])

/-! ## The delay timer (R151) -/

/-- No instruction but load delay-timer changes the delay timer (R123, R151). -/
theorem dt_exec {i : Instr} {s t : State} (h : exec i s = .next t) : t.dt = s.dt ∨ ∃ x, i = .ldDtVx x := by
  cases i
  case ldDtVx x => exact .inr ⟨x, rfl⟩
  case rnd => cases h; exact .inl (by rw [State.dt_setReg, State.drawDone_eq])
  all_goals cases h; exact .inl (by simp [State.skipIf_eq, State.push_eq, State.setRegFlag, State.advanceIndex_eq])

/-- The delay timer after some real time: down by the whole ticks in it, but not below zero (R150, R175). -/
theorem dt_elapse (s : State) (d : Rat) : (s.elapse d).dt.toNat = s.dt.toNat - ticksIn (s.tickAcc + d) :=
  State.dt_ticks s _

/-- The sound timer after some real time, likewise. -/
theorem st_elapse (s : State) (d : Rat) : (s.elapse d).st.toNat = s.st.toNat - ticksIn (s.tickAcc + d) :=
  State.st_ticks s _

/-- Settles O54: by the case of the step; ticks only count down. -/
theorem delayTimerRisesOnlyByItsLoad : Obligations.DelayTimerRisesOnlyByItsLoad := by
  intro s t h hnr
  cases stepCase_of_step h with
  | core u hu hcore =>
    have hdt : u.skip.dt = s.dt := by rw [coreTurn_eq hu]; rfl
    obtain ⟨-, ⟨i, hi, hexec⟩ | ⟨-, rfl⟩⟩ := coreStep_next hcore
    · obtain hkept | ⟨x, rfl⟩ := dt_exec hexec
      · exact .inl (by rw [hkept, hdt])
      · exact .inr ⟨x, runsNext_of_coreStep hu hcore hi⟩
    · exact .inl (by rw [← hdt]; rfl)
  | passedOver rest hl hf h => exact .inl (h ▸ le_rfl)
  | frameKeys ks rest hl h => exact .inl (h ▸ le_rfl)
  | presents hl h => exact .inl (h ▸ le_rfl)
  | tick rest hs h =>
    have hdt : t.dt.toNat = s.dt.toNat - 1 := h ▸ State.toNat_countDown s.dt
    exact .inl (hdt ▸ Nat.sub_le _ _)
  | beginFrame d inputs rest hd h =>
    have hdt : t.dt.toNat = s.dt.toNat - ticksIn (s.tickAcc + d) := h ▸ dt_elapse (s.setSchedule rest) d
    exact .inl (hdt ▸ Nat.sub_le _ _)
  | keys ks rest h => exact .inl (h ▸ le_rfl)
  | reset rom rest hr h => exact absurd hr hnr

/-! ## The presentation (R113) -/

/-- The core's `Step` presents nothing (R113). -/
theorem presented_coreStep {s t : State} (h : coreStep s = .next t) : t.presented = s.presented := by
  obtain ⟨-, ⟨i, -, hexec⟩ | ⟨-, rfl⟩⟩ := coreStep_next h
  · obtain ⟨⟨-, -, -, -, -, hpresented, -⟩, -⟩ := exec_keeps hexec
    exact hpresented
  · rfl

/-- No step but the presentation at a frame's end and a reset changes what was presented (R113, R170). -/
theorem presented_step {s t : State} (h : step s = .next t) (hnp : ¬ s.presentNext) (hnr : ¬ s.resetNext) :
    t.presented = s.presented := by
  cases stepCase_of_step h with
  | core u hu hcore => rw [presented_coreStep hcore, coreTurn_eq hu]
  | passedOver rest hl hf h => rw [h]; rfl
  | frameKeys ks rest hl h => rw [h]; rfl
  | presents hl h => exact absurd hl hnp
  | tick rest hs h => rw [h]; rfl
  | beginFrame d inputs rest hd h => rw [h, State.beginFrame_eq, State.elapse_eq]; rfl
  | keys ks rest h => rw [h]; rfl
  | reset rom rest hr h => exact absurd hr hnr

/-- Settles O45: the framebuffer has one byte for each dot in the order of the display, whose rows are 64 dots long. -/
theorem framebufferShowsEveryDot : Obligations.FramebufferShowsEveryDot := by
  refine ⟨fun s hs => ⟨⟨s.framebuffer, Config.width, Config.height, s.fault⟩, ?_, ?_, rfl, rfl, rfl, ?_⟩,
    fun s t h hnp hnr => presented_step h hnp hnr⟩
  · rw [step_of_frameLeft hs]; rfl
  · exact Vector.length_toList
  · intro px hpx py hpy
    have hk : py * 64 + px < Config.dots := by
      have : Config.dots = 2048 := rfl
      omega
    rw [List.getElem?_eq_getElem (by simpa using hk), Vector.getElem_toList, State.getElem_framebuffer s _ hk]

/-! ## Key changes (R152) -/

/-- Settles O57: a key change is one transition, between frames and inside one; the core's turn comes right after. -/
theorem keysMayChangeBetweenAnyTwoSteps : Obligations.KeysMayChangeBetweenAnyTwoSteps := by
  refine fun s ks => ⟨fun rest hl hs => ?_, fun rest hl => ?_⟩
  · rw [step_of_schedule_cons hl hs]; rfl
  · refine ⟨(s.setFrameLeft (some (none :: rest))).setKeys ks, ?_, rfl, .inr (.inr ⟨rest, rfl, rfl⟩)⟩
    rw [step_of_frameLeft hl]; rfl

end Sys2Proof.Machine

/-! PROOFS: memory, spec/20_memory.md R30 to R44: what two bytes read as, when two memories are equal, and which bytes an
instruction writes and reads. -/

namespace Sys2Proof.Machine.Memory

/-! ## Two-byte reads (R33, R34) -/

/-- A two-byte read is big-endian (R33). -/
theorem toNat_read2 (m : Memory) (a : Nat) : (m.read2 a).toNat = (m.read a).toNat * 256 + (m.read (a + 1)).toNat := by
  rw [read2, BitVec.toNat_append, ← Nat.shiftLeft_add_eq_or_of_lt (m.read (a + 1)).isLt, Nat.shiftLeft_eq]

/-- Reads of the same bytes give the same list (R36). -/
theorem readBytes_congr {m m' : Memory} {a n : Nat} (h : ∀ k < n, m.read (a + k) = m'.read (a + k)) :
    m.readBytes a n = m'.readBytes a n :=
  List.ext_getElem (by simp) fun k hk _ => by simpa using h k (by simpa using hk)

/-- Writing several bytes changes no byte at another address (R36). -/
theorem read_writeBytes_of_not_mem (m : Memory) (a : Nat) (bs : List Byte) {c : Nat}
    (h : ∀ b ∈ (List.range bs.length).map (a + ·), c % 4096 ≠ b % 4096) : (m.writeBytes a bs).read c = m.read c :=
  read_writeBytes_of_ne m a bs c fun _ hk => h _ (List.mem_map_of_mem (List.mem_range.mpr hk))

/-! ## Equal memories are equal data (log entry 8) -/

/-- A byte that is not what an unlisted address reads as is listed. -/
theorem mem_of_cellsByteAt_ne {f : Font} {cs : List Host.Cell} {a : Nat} (h : cellsByteAt f cs a ≠ unlistedByte f a) :
    (a, cellsByteAt f cs a) ∈ cs := by
  induction cs with
  | nil => exact absurd rfl h
  | cons c rest ih =>
    by_cases hc : c.1 = a
    · simp [cellsByteAt, ← hc]
    · simp only [cellsByteAt, hc, if_false] at h ⊢
      exact List.mem_cons_of_mem _ (ih h)

/-- Where addresses rise, a listed byte is what its address reads as. -/
theorem cellsByteAt_of_mem (f : Font) {cs : List Host.Cell} (hcs : cs.Pairwise fun c d => c.1 < d.1) {c : Host.Cell}
    (h : c ∈ cs) : cellsByteAt f cs c.1 = c.2 := by
  induction cs with
  | nil => cases h
  | cons d rest ih =>
    obtain ⟨hd, hrest⟩ := List.pairwise_cons.mp hcs
    rcases List.mem_cons.mp h with rfl | h
    · simp [cellsByteAt]
    · have hne : ¬ d.1 = c.1 := (hd c h).ne
      simp only [cellsByteAt, hne, if_false]
      exact ih hrest h

/-- A cell of one memory in canonical form is a cell of any memory of the same font that reads alike. -/
theorem cells_subset_of_read_eq {m m' : Memory} (h : m.wf) (hf : m.font = m'.font) (hr : ∀ a, m.read a = m'.read a)
    {c : Host.Cell} (hc : c ∈ m.cells) : c ∈ m'.cells := by
  obtain ⟨hlt, hne⟩ := h.2 c hc
  have hbyte : m.byteAt c.1 = c.2 := cellsByteAt_of_mem m.font h.1 hc
  have hbyte' : m'.byteAt c.1 = c.2 := by
    have hread := hr c.1
    rw [read, read, Nat.mod_eq_of_lt hlt] at hread
    rw [← hread, hbyte]
  have hne' : m'.byteAt c.1 ≠ unlistedByte m'.font c.1 := by rw [hbyte', ← hf]; exact hne
  have hmem : (c.1, m'.byteAt c.1) ∈ m'.cells := mem_of_cellsByteAt_ne hne'
  rwa [hbyte'] at hmem

/-- Lists whose addresses rise are equal when they have the same cells. -/
theorem cells_eq_of_mem_iff {cs ds : List Host.Cell} (hcs : cs.Pairwise fun c d => c.1 < d.1)
    (hds : ds.Pairwise fun c d => c.1 < d.1) (h : ∀ c, c ∈ cs ↔ c ∈ ds) : cs = ds :=
  have : Std.Irrefl fun c d : Host.Cell => c.1 < d.1 := ⟨fun c => lt_irrefl c.1⟩
  have : Std.Antisymm fun c d : Host.Cell => c.1 < d.1 := ⟨fun _ _ h h' => absurd h' h.asymm⟩
  hcs.eq_of_mem_iff hds h

/-- Settles O13: each memory's cells are the other's, and rising addresses fix their order. -/
theorem canonicalMemoriesThatReadAlikeAreEqual : Obligations.CanonicalMemoriesThatReadAlikeAreEqual := by
  intro m m' h h' hf hr
  have hcells : m.cells = m'.cells := cells_eq_of_mem_iff h.1 h'.1 fun c =>
    ⟨cells_subset_of_read_eq h hf hr, cells_subset_of_read_eq h' hf.symm fun a => (hr a).symm⟩
  cases m; cases m'
  simp_all

end Sys2Proof.Machine.Memory

namespace Sys2Proof.Machine

/-! ## The fetch (R34, R43) -/

/-- The word fetched is big-endian, at any `pc` (R34). -/
theorem toNat_fetchWord (s : State) :
    s.fetchWord.toNat = (s.mem.read s.pc.toNat).toNat * 256 + (s.mem.read (s.pc.toNat + 1)).toNat :=
  Memory.toNat_read2 s.mem s.pc.toNat

/-- Settles O11: each byte's address is taken modulo 4096. -/
theorem fetchIsBigEndianAtAnyPc : Obligations.FetchIsBigEndianAtAnyPc := by
  intro s
  rw [toNat_fetchWord, Memory.read_mod]

/-- Byte `k` of what store-registers stores is read back `k` places after `I` (R104). -/
theorem read_writeBytes_regsUpTo (s : State) {x k : Reg} (hk : k ≤ x) :
    (s.mem.writeBytes s.indexBase (s.regsUpTo x)).read (s.i.toNat + k.val) = s.reg k := by
  have hlen := State.length_regsUpTo s x
  have hlt : k.val < (s.regsUpTo x).length := hlen ▸ Nat.lt_succ_of_le hk
  rw [← State.getElem_regsUpTo s x k.val hlt k.isLt]
  exact Memory.read_writeBytes s.mem s.i.toNat _ k.val hlt (by omega)

/-- The high byte of the word fetched is the byte at `pc` (R34). -/
theorem toNat_fetchWord_div (s : State) : s.fetchWord.toNat / 256 = (s.mem.read s.pc.toNat).toNat := by
  have := (s.mem.read (s.pc.toNat + 1)).isLt
  rw [toNat_fetchWord]; omega

/-- The low byte of the word fetched is the byte after (R34). -/
theorem toNat_fetchWord_mod (s : State) : s.fetchWord.toNat % 256 = (s.mem.read (s.pc.toNat + 1)).toNat := by
  have := (s.mem.read (s.pc.toNat + 1)).isLt
  rw [toNat_fetchWord]; omega

/-- Settles O12: the fetch reads memory as the store left it, and the store does not move `pc`. -/
theorem storeIsSeenByTheNextFetch : Obligations.StoreIsSeenByTheNextFetch := by
  intro s x k hk
  refine ⟨_, rfl, fun h => ?_, fun h => ?_⟩
  · rw [toNat_fetchWord_div, ← read_writeBytes_regsUpTo s hk]
    exact congrArg BitVec.toNat (Memory.read_congr _ (h ▸ Nat.mod_mod _ _))
  · rw [toNat_fetchWord_mod, ← read_writeBytes_regsUpTo s hk]
    exact congrArg BitVec.toNat (Memory.read_congr _ h.symm)

/-! ## Which bytes an instruction writes (R36) -/

/-- No instruction but call, store-bcd and store-registers changes memory. -/
theorem mem_exec {i : Instr} {s t : State} (h : exec i s = .next t) :
    t.mem = s.mem ∨ (∃ nnn, i = .call nnn) ∨ (∃ x, i = .ldB x) ∨ ∃ x, i = .ldMemVx x := by
  cases i
  case call nnn => exact .inr (.inl ⟨nnn, rfl⟩)
  case ldB x => exact .inr (.inr (.inl ⟨x, rfl⟩))
  case ldMemVx x => exact .inr (.inr (.inr ⟨x, rfl⟩))
  case rnd => cases h; exact .inl (by rw [State.mem_setReg, State.drawDone_eq])
  all_goals cases h; exact .inl (by simp [State.skipIf_eq, State.setRegFlag, State.advanceIndex_eq])

/-- A push changes no byte but the two of its entry (R72). -/
theorem sameMemBut_push (s : State) (a : Addr) : s.SameMemBut (s.push a) [s.stackSlot s.sp, s.stackSlot s.sp + 1] := by
  intro c hc
  have h0 : ¬ c % 4096 = s.stackSlot s.sp % 4096 := hc _ (by simp)
  have h1 : ¬ c % 4096 = (s.stackSlot s.sp + 1) % 4096 := hc _ (by simp)
  rw [State.push_eq, Memory.read_write2, if_neg h1, if_neg h0]

/-- Settles O14: the three instructions that write memory write at the addresses listed for them. -/
theorem onlyPresentedBytesAreWritten : Obligations.OnlyPresentedBytesAreWritten := by
  intro i s t h
  obtain hkept | ⟨nnn, rfl⟩ | ⟨x, rfl⟩ | ⟨x, rfl⟩ := mem_exec h
  · exact ⟨fun a _ => by rw [hkept], fun _ _ _ a => by rw [hkept]⟩
  · cases h; exact ⟨sameMemBut_push s s.pc, fun hne => absurd rfl (hne nnn)⟩
  · cases h
    exact ⟨fun _ hc => Memory.read_writeBytes_of_not_mem _ _ _ hc, fun _ hne => absurd rfl (hne x)⟩
  · cases h
    refine ⟨fun _ hc => Memory.read_writeBytes_of_not_mem _ _ _ ?_, fun _ _ hne => absurd rfl (hne x)⟩
    rwa [State.length_regsUpTo]

/-! ## Which bytes an instruction reads (R36) -/

/-- What is popped rests on the two bytes of the entry below `sp` alone (R70). -/
theorem poppedAddr_congr {s t : State} (hsp : t.sp = s.sp) (hpar : t.params = s.params)
    (h0 : t.mem.read (s.stackSlot (s.sp - 1)) = s.mem.read (s.stackSlot (s.sp - 1)))
    (h1 : t.mem.read (s.stackSlot (s.sp - 1) + 1) = s.mem.read (s.stackSlot (s.sp - 1) + 1)) :
    t.poppedAddr = s.poppedAddr := by
  have hslot : t.stackSlot (t.sp - 1) = s.stackSlot (s.sp - 1) := by rw [hsp, State.stackSlot, hpar]; rfl
  rw [State.poppedAddr, State.poppedAddr, hslot, Memory.read2, h0, h1]; rfl

/-- What load-registers loads rests on the bytes from `I` on alone (R105). -/
theorem regsLoaded_setMem {s : State} {x : Reg} {m : Memory}
    (h : ∀ k ≤ x, m.read (s.i.toNat + k.val) = s.mem.read (s.i.toNat + k.val)) :
    (s.setMem m).regsLoaded x = s.regsLoaded x := by
  refine Vector.ext fun k hk => ?_
  have hget := State.get_regsLoaded (s.setMem m) x ⟨k, hk⟩
  have hget' := State.get_regsLoaded s x ⟨k, hk⟩
  rw [Vector.get_eq_getElem] at hget hget'
  rw [hget, hget']
  split
  · rename_i hle; exact h _ hle
  · rfl

/-- What draw-sprite makes of the display, and whether a dot under the sprite was lit (R111). -/
def State.drawn (s : State) (x y : Reg) (n : Nat) : Display × Bool :=
  drawRows (s.reg x).toNat (s.reg y).toNat (s.mem.readBytes s.indexBase n) (s.disp, false)

/-- All draw-sprite does: the display, then the flag (R111). -/
theorem exec_drw_drawn (x y : Reg) (n : Nat) (s : State) :
    exec (.drw x y n) s = .next ((s.setDisp (s.drawn x y n).1).setReg VF (collisionFlag (s.drawn x y n).2)) := rfl

/-- A draw takes the first supplied byte away, and counts where there is none (R125). -/
theorem State.drawDone_eq_tail (s : State) :
    s.drawDone = { s with randomIn := s.randomIn.tail, draws := if s.randomIn = [] then s.draws + 1 else s.draws } := by
  obtain ⟨b, rest, hin, -, h⟩ | ⟨hin, -, h⟩ := s.drawDone_cases
  · rw [h]; simp [hin]
  · rw [h]; simp [hin]

/-- Settles O15: return, draw-sprite and load-registers read at the addresses listed for them, no other meaning reads memory. -/
theorem onlyPresentedBytesAreRead : Obligations.OnlyPresentedBytesAreRead := by
  intro i s t m hm h
  cases i
  case ret =>
    have hpop : (s.setMem m).poppedAddr = s.poppedAddr :=
      poppedAddr_congr rfl rfl (hm _ (List.mem_cons_self ..)) (hm _ (by simp [State.dataAddrs]))
    cases h
    refine ⟨_, rfl, fun m' => ?_⟩
    rw [hpop]; rfl
  case drw x y n =>
    have hrows : m.readBytes s.indexBase n = s.mem.readBytes s.indexBase n :=
      Memory.readBytes_congr fun k hk => hm _ (List.mem_map_of_mem (List.mem_range.mpr hk))
    have hdrawn : (s.setMem m).drawn x y n = s.drawn x y n := congrArg (drawRows _ _ · _) hrows
    rw [exec_drw_drawn, Host.Outcome.next.injEq] at h
    refine ⟨_, exec_drw_drawn .., fun m' => ?_⟩
    rw [← h, hdrawn]; rfl
  case ldVxMem x =>
    have hregs : (s.setMem m).regsLoaded x = s.regsLoaded x :=
      regsLoaded_setMem fun k hk => hm _ (List.mem_map_of_mem (List.mem_range.mpr (Nat.lt_succ_of_le hk)))
    rw [exec_ldVxMem, execLdVxMem, Host.Outcome.next.injEq] at h
    refine ⟨_, rfl, fun m' => ?_⟩
    rw [← h, hregs]; rfl
  case rnd =>
    cases h
    refine ⟨_, rfl, fun m' => ?_⟩
    rw [State.drawDone_eq_tail, State.drawDone_eq_tail]; rfl
  case seImm | sneImm | seReg | sneReg | skp | sknp =>
    cases h
    refine ⟨_, rfl, fun m' => ?_⟩
    rw [State.skipIf_eq, State.skipIf_eq]; rfl
  all_goals cases h; exact ⟨_, rfl, fun m' => rfl⟩

/-! ## A return undoes a call (R70, R72) -/

/-- Settles O19: the entry below `sp` is the one the call pushed. -/
theorem returnUndoesCall : Obligations.ReturnUndoesCall := by
  intro nnn s
  refine ⟨(s.push s.pc).setPc nnn, rfl, fun u hsp hpar hm => ⟨_, rfl, ?_, ?_⟩⟩
  · have hslot : (s.push s.pc).stackSlot ((s.push s.pc).sp - 1) = s.params.stackBase.toNat + 2 * s.sp.toNat := by
      rw [State.push_eq, State.stackSlot]; simp
    have hpop : u.poppedAddr = (s.push s.pc).poppedAddr := by
      refine poppedAddr_congr hsp hpar ?_ ?_
      all_goals rw [hslot]
      · exact hm 0 (by decide)
      · exact hm 1 (by decide)
    exact hpop.trans (State.poppedAddr_push s s.pc)
  · have hback : u.sp - 1 = s.sp := by rw [hsp, State.push_eq]; simp
    exact hback

end Sys2Proof.Machine

/-! PROOFS: one instruction at a time, spec/40_control_transfer.md R70 to R77, spec/41_register_alu.md R81 to R92,
spec/42_index_memory.md R100 to R105, spec/44_timers_keys_random.md R120 to R125. First what every proof here needs: the word of an
instruction by its fields, and what an update of the state leaves alone. -/

namespace Sys2Proof

/-! ## Words by their fields (spec/30_encoding.md section 7) -/

/-- The word of R53's format XYN, as a number and as a concatenation of its fields. -/
theorem wordAXYN_eq_formatXY (a : BitVec 4) (x y : Reg) (n : BitVec 4) :
    Machine.wordAXYN a.toNat x y n.toNat = formatXY a x y n := by
  apply BitVec.eq_of_toNat_eq
  rw [toNat_formatXY, Machine.wordAXYN, BitVec.toNat_ofNat]
  omega

/-- The word of R53's format A, as a number and as a concatenation of its fields. -/
theorem wordANNN_eq_formatA (a : BitVec 4) (nnn : Addr) : Machine.wordANNN a.toNat nnn = formatA a nnn := by
  apply BitVec.eq_of_toNat_eq
  rw [toNat_formatA, Machine.wordANNN, BitVec.toNat_ofNat]
  omega

/-- A word of format A decodes to the instruction it encodes. -/
theorem decodeWord_wordANNN {i : Instr} (a : BitVec 4) {nnn : Addr} (h : encode i = formatA a nnn) (hw : WellFormed i) :
    decodeWord (Machine.wordANNN a.toNat nnn) = some i := by
  rw [wordANNN_eq_formatA, ← h, decodeWord_encode hw]

/-- A word of format XB, or X, decodes to the instruction it encodes. -/
theorem decodeWord_wordAXNN {i : Instr} (a : BitVec 4) {x : Reg} (nn : Byte) (h : encode i = formatXB a x nn)
    (hw : WellFormed i) : decodeWord (Machine.wordAXNN a.toNat x nn.toNat) = some i := by
  rw [Machine.wordAXNN_eq_formatXB, ← h, decodeWord_encode hw]

/-- A word of format XYN decodes to the instruction it encodes. -/
theorem decodeWord_wordAXYN {i : Instr} (a : BitVec 4) {x y : Reg} (n : BitVec 4) (h : encode i = formatXY a x y n)
    (hw : WellFormed i) : decodeWord (Machine.wordAXYN a.toNat x y n.toNat) = some i := by
  rw [wordAXYN_eq_formatXY, ← h, decodeWord_encode hw]

end Sys2Proof

namespace Sys2Proof.Machine

/-! ## What an update leaves alone (spec/10_state.md section 11) -/

theorem sameBut_setI (s : State) (a : Addr) : s.SameBut (s.setI a) [.index] := by simp [State.SameBut]

theorem sameBut_setDt (s : State) (b : Byte) : s.SameBut (s.setDt b) [.dt] := by simp [State.SameBut]

theorem sameBut_setSt (s : State) (b : Byte) : s.SameBut (s.setSt b) [.st] := by simp [State.SameBut]

/-- A write of memory changes nothing else, and the font is no part of it (R3, R21). -/
theorem sameBut_setMem (s : State) {m : Memory} (hf : m.font = s.mem.font) : s.SameBut (s.setMem m) [.mem] := by
  simp [State.SameBut, hf]

theorem sameBut_setRegFlag (s : State) (x : Reg) (r f : Byte) : s.SameBut (s.setRegFlag x r f) [.regs] := by
  simp [State.SameBut, State.setRegFlag]

/-- A result and the flag change no register but the destination and `VF` (R92). -/
theorem sameRegsBut_setRegFlag (s : State) (x : Reg) (r f : Byte) : s.SameRegsBut (s.setRegFlag x r f) [x, VF] := by
  intro k hk
  obtain ⟨hx, hf⟩ : k ≠ x ∧ k ≠ VF := by simpa using hk
  rw [State.reg_setRegFlag, if_neg hf, if_neg hx]

/-- The flag is written last (R13, R92). -/
theorem reg_VF_setRegFlag (s : State) (x : Reg) (r f : Byte) : (s.setRegFlag x r f).reg VF = f := by
  rw [State.reg_setRegFlag, if_pos rfl]

/-- A destination that is not `VF` keeps the result (R92). -/
theorem reg_dest_setRegFlag (s : State) {x : Reg} (hx : x ≠ VF) (r f : Byte) : (s.setRegFlag x r f).reg x = r := by
  rw [State.reg_setRegFlag, if_neg hx, if_pos rfl]

/-! ## Flags as numbers (R12) -/

/-- A flag byte is the number of its truth value (R12). -/
theorem toNat_flagByte (b : Bool) : (flagByte b).toNat = b.toNat := by
  cases b <;> rfl

/-- The flag of a condition (R12). -/
theorem flagByte_decide (p : Prop) [Decidable p] : flagByte (decide p) = if p then 1 else 0 := by
  by_cases hp : p <;> simp [flagByte, hp]

/-! ## Control transfer (R70 to R77) -/

/-- Settles O16: the fetch's advance is undone by the jump to the jump's own address. -/
theorem jumpSetsPc : Obligations.JumpSetsPc := by
  refine fun nnn s => ⟨decodeWord_wordANNN 0x1 rfl rfl, ⟨s.setPc nnn, rfl, rfl, sameBut_setPc s nnn⟩, fun hl hs hr hw => ?_⟩
  have hd : decodeWord s.fetchWord = some (.jp s.pc) := hw ▸ decodeWord_wordANNN 0x1 rfl rfl
  rw [step_of_schedule_nil hl hs, coreStep_of_decodeWord hr hd]
  rfl

/-- The high byte of a two-byte write is at the lower address (R33). -/
theorem Memory.read_write2_hi (m : Memory) (a : Nat) (w : BitVec 16) : (m.write2 a w).read a = w.extractLsb' 8 8 := by
  have hne : ¬ a % 4096 = (a + 1) % 4096 := by omega
  rw [Memory.read_write2, if_neg hne, if_pos rfl]

/-- The low byte of a two-byte write is at the next address (R33). -/
theorem Memory.read_write2_lo (m : Memory) (a : Nat) (w : BitVec 16) : (m.write2 a w).read (a + 1) = w.extractLsb' 0 8 := by
  rw [Memory.read_write2, if_pos rfl]

/-- Settles O17: a push and a jump. -/
theorem callPushesTheNextAddress : Obligations.CallPushesTheNextAddress := by
  refine fun nnn s => ⟨decodeWord_wordANNN 0x2 rfl rfl, (s.push s.pc).setPc nnn, rfl, rfl, toNat_sp_add_one s.sp, ?_, ?_,
    sameMemBut_push s s.pc, by simp [State.SameBut, State.push]⟩
  · have hi : ((s.push s.pc).setPc nnn).mem.read (s.stackSlot s.sp) = (s.pc.setWidth 16).extractLsb' 8 8 :=
      Memory.read_write2_hi _ _ _
    have := s.pc.isLt
    rw [← State.stackSlot, hi, toNat_extract, BitVec.toNat_setWidth]; omega
  · have lo : ((s.push s.pc).setPc nnn).mem.read (s.stackSlot s.sp + 1) = (s.pc.setWidth 16).extractLsb' 0 8 :=
      Memory.read_write2_lo _ _ _
    rw [← State.stackSlot, lo, toNat_extract, BitVec.toNat_setWidth]; omega

/-- Settles O18: the address popped is the low 12 bits of the entry, read big-endian. -/
theorem returnPopsTheStack : Obligations.ReturnPopsTheStack := by
  refine ⟨by decide, fun s => ⟨(s.setSp (s.sp - 1)).setPc s.poppedAddr, rfl, toNat_sp_sub_one s.sp, ?_,
    by simp [State.SameBut]⟩⟩
  have hpop : s.poppedAddr.toNat = (s.mem.read2 (s.stackSlot (s.sp - 1))).toNat % 4096 := BitVec.toNat_setWidth 12 _
  rw [Memory.toNat_read2] at hpop
  exact hpop

/-- Settles O21: the meaning of `4xnn` is a conditional skip. -/
theorem skipIfNotEqualImmediate : Obligations.SkipIfNotEqualImmediate := by
  refine fun x nn s => ⟨decodeWord_wordAXNN 0x4 nn rfl rfl, s.skipIf (s.reg x != nn), rfl, ?_, sameBut_skipIf s _⟩
  simp [toNat_pc_skipIf, BitVec.toNat_inj]

/-- Settles O22: the meanings of `5xy0` and `9xy0` are conditional skips. -/
theorem skipsOnRegister : Obligations.SkipsOnRegister := by
  refine fun x y s => ⟨decodeWord_wordAXYN 0x5 0x0 rfl rfl, decodeWord_wordAXYN 0x9 0x0 rfl rfl,
    ⟨s.skipIf (s.reg x == s.reg y), rfl, ?_, sameBut_skipIf s _⟩, ⟨s.skipIf (s.reg x != s.reg y), rfl, ?_, sameBut_skipIf s _⟩⟩
  all_goals simp [toNat_pc_skipIf, BitVec.toNat_inj]

/-- Settles O24: the sum wraps at the width of `pc`. -/
theorem jumpIndexedAddsV0 : Obligations.JumpIndexedAddsV0 := by
  refine fun nnn s => ⟨decodeWord_wordANNN 0xB rfl rfl, s.setPc (nnn + (s.reg 0).setWidth 12), rfl, ?_, sameBut_setPc s _⟩
  rw [State.pc_setPc, BitVec.toNat_add, BitVec.toNat_setWidth_of_le (by decide)]

/-! ## Registers, arithmetic, logic, shifts (R81 to R92) -/

/-- Settles O27: one register write. -/
theorem loadRegisterAssigns : Obligations.LoadRegisterAssigns :=
  fun x y s => ⟨decodeWord_wordAXYN 0x8 0x0 rfl rfl, s.setReg x (s.reg y), rfl, reg_setReg_same s x _,
    sameRegsBut_setReg s x _, sameBut_setReg s x _⟩

/-- Settles O28: one register write, of a sum that wraps at the register's width. -/
theorem addImmediateWrapsWithoutFlag : Obligations.AddImmediateWrapsWithoutFlag := by
  refine fun x nn s => ⟨decodeWord_wordAXNN 0x7 nn rfl rfl, s.setReg x (s.reg x + nn), rfl, ?_, sameRegsBut_setReg s x _,
    sameBut_setReg s x _⟩
  rw [reg_setReg_same, BitVec.toNat_add]

/-- Settles O29: one register write each, of the bitwise combination. -/
theorem logicCombinesBits : Obligations.LogicCombinesBits := by
  refine fun x y s => ⟨decodeWord_wordAXYN 0x8 0x1 rfl rfl, decodeWord_wordAXYN 0x8 0x2 rfl rfl,
    decodeWord_wordAXYN 0x8 0x3 rfl rfl,
    ⟨s.setReg x (s.reg x ||| s.reg y), rfl, fun k _ => ?_, sameRegsBut_setReg s x _, sameBut_setReg s x _⟩,
    ⟨s.setReg x (s.reg x &&& s.reg y), rfl, fun k _ => ?_, sameRegsBut_setReg s x _, sameBut_setReg s x _⟩,
    ⟨s.setReg x (s.reg x ^^^ s.reg y), rfl, fun k _ => ?_, sameRegsBut_setReg s x _, sameBut_setReg s x _⟩⟩
  · rw [reg_setReg_same, BitVec.getLsbD_or]
  · rw [reg_setReg_same, BitVec.getLsbD_and]
  · rw [reg_setReg_same, BitVec.getLsbD_xor]

/-- Settles O30: the sum, then the carry. -/
theorem addReportsCarry : Obligations.AddReportsCarry := by
  refine fun x y s => ⟨decodeWord_wordAXYN 0x8 0x4 rfl rfl, s.setRegFlag x (s.reg x + s.reg y) (carryFlag (s.reg x) (s.reg y)),
    rfl, fun hx => ?_, ?_, sameRegsBut_setRegFlag s x _ _, sameBut_setRegFlag s x _ _⟩
  · rw [reg_dest_setRegFlag s hx, BitVec.toNat_add]
  · rw [reg_VF_setRegFlag, carryFlag, flagByte_decide]

/-- A difference modulo 256, as a number (R87). -/
theorem toNat_sub_byte (a b : Byte) : (a - b).toNat = (a.toNat + 256 - b.toNat) % 256 := by
  have := b.isLt
  rw [BitVec.toNat_sub]; congr 1; omega

/-- Settles O31: the difference, then the flag that no borrow occurred. -/
theorem subtractionsReportNoBorrow : Obligations.SubtractionsReportNoBorrow := by
  refine fun x y s => ⟨decodeWord_wordAXYN 0x8 0x5 rfl rfl, decodeWord_wordAXYN 0x8 0x7 rfl rfl,
    ⟨s.setRegFlag x (s.reg x - s.reg y) (noBorrowFlag (s.reg x) (s.reg y)), rfl, fun hx => ?_, ?_,
      sameRegsBut_setRegFlag s x _ _, sameBut_setRegFlag s x _ _⟩,
    ⟨s.setRegFlag x (s.reg y - s.reg x) (noBorrowFlag (s.reg y) (s.reg x)), rfl, fun hx => ?_, ?_,
      sameRegsBut_setRegFlag s x _ _, sameBut_setRegFlag s x _ _⟩⟩
  · rw [reg_dest_setRegFlag s hx, toNat_sub_byte]
  · rw [reg_VF_setRegFlag, noBorrowFlag, flagByte_decide]
  · rw [reg_dest_setRegFlag s hx, toNat_sub_byte]
  · rw [reg_VF_setRegFlag, noBorrowFlag, flagByte_decide]

/-- A bit of a byte, as a number (R88, R90). -/
theorem toNat_getLsbD (b : Byte) (k : Nat) : (b.getLsbD k).toNat = b.toNat / 2 ^ k % 2 := Nat.toNat_testBit b.toNat k

/-- Settles O32: the shifted byte, then the bit that went out. -/
theorem shiftsReportTheBitOut : Obligations.ShiftsReportTheBitOut := by
  refine fun x y s => ⟨decodeWord_wordAXYN 0x8 0x6 rfl rfl, decodeWord_wordAXYN 0x8 0xE rfl rfl,
    ⟨s.setRegFlag x (s.reg x >>> 1) (shrFlag (s.reg x)), rfl, fun hx => ?_, ?_,
      sameRegsBut_setRegFlag s x _ _, sameBut_setRegFlag s x _ _⟩,
    ⟨s.setRegFlag x (s.reg x <<< 1) (shlFlag (s.reg x)), rfl, fun hx => ?_, ?_,
      sameRegsBut_setRegFlag s x _ _, sameBut_setRegFlag s x _ _⟩⟩
  · rw [reg_dest_setRegFlag s hx, BitVec.toNat_ushiftRight, Nat.shiftRight_eq_div_pow]
  · rw [reg_VF_setRegFlag, shrFlag, toNat_flagByte, toNat_getLsbD]; omega
  · rw [reg_dest_setRegFlag s hx, BitVec.toNat_shiftLeft, Nat.shiftLeft_eq]
  · have := (s.reg x).isLt
    rw [reg_VF_setRegFlag, shlFlag, toNat_flagByte, toNat_getLsbD]; omega

/-! ## Index register and memory (R100 to R105) -/

/-- Settles O35: one write of `I`. -/
theorem loadIndexAssigns : Obligations.LoadIndexAssigns :=
  fun nnn s => ⟨decodeWord_wordANNN 0xA rfl rfl, s.setI nnn, rfl, rfl, sameBut_setI s nnn⟩

/-- Settles O36: the sum at the width of `I`, then the overflow. -/
theorem addIndexReportsOverflow : Obligations.AddIndexReportsOverflow := by
  refine fun x s => ⟨decodeWord_wordAXNN 0xF 0x1E rfl rfl,
    (s.setI (s.i + (s.reg x).setWidth 12)).setReg VF (indexOverflowFlag s.i (s.reg x)), rfl, ?_, ?_,
    sameRegsBut_setReg (s.setI _) VF _, by simp [State.SameBut]⟩
  · rw [State.i_setReg, State.i_setI, BitVec.toNat_add, BitVec.toNat_setWidth_of_le (by decide)]
  · rw [reg_setReg_same, indexOverflowFlag, flagByte_decide]

/-- A glyph's address is five times the byte: no byte's glyph lies past the end of memory (R102). -/
theorem toNat_glyphAddr (b : Byte) : (glyphAddr b).toNat = 5 * b.toNat := by
  have := b.isLt
  rw [glyphAddr, BitVec.toNat_ofNat, Config.fontBase, Config.glyphStride]; omega

/-- The font stands at the bottom of the memory after reset (R38). -/
theorem read_cleared_of_lt_80 (m : Memory) {a : Nat} (ha : a < 80) : some (m.cleared.read a) = m.font.toList[a]? := by
  have hlen : a < m.font.toList.length := by rw [Vector.length_toList]; exact ha
  rw [Memory.read_cleared, unlistedByte, Config.fontBase, Nat.sub_zero, Nat.mod_eq_of_lt (by omega),
    List.getElem?_eq_getElem hlen, List.getD_eq_getElem _ _ hlen]

/-- The default font is the glyphs of the sixteen digits, five bytes each (R38). -/
theorem readBytes_reset_glyph : ∀ d < 16, some (State.reset.mem.readBytes (5 * d) 5) = glyphs[d]? := by decide

/-- Settles O37: one write of `I`; the glyphs of the digits are the font, five bytes each. -/
theorem glyphAddressIsFiveTimesTheRegister : Obligations.GlyphAddressIsFiveTimesTheRegister := by
  refine fun x s => ⟨decodeWord_wordAXNN 0xF 0x29 rfl rfl, s.setI (glyphAddr (s.reg x)), rfl, toNat_glyphAddr _,
    sameBut_setI s _, fun hdigit => ?_⟩
  rw [State.i_setI, toNat_glyphAddr]
  exact ⟨fun r hr => read_cleared_of_lt_80 s.mem (by omega), readBytes_reset_glyph _ hdigit⟩

/-- Settles O38: the three digits of a byte, each at its place. -/
theorem bcdStoresThreeDigits : Obligations.BcdStoresThreeDigits := by
  refine fun x s => ⟨decodeWord_wordAXNN 0xF 0x33 rfl rfl, s.setMem (s.mem.writeBytes s.indexBase (bcdDigits (s.reg x))), rfl, ?_⟩
  have digit (k : Nat) (hk : k < 3) :
      ((s.mem.writeBytes s.indexBase (bcdDigits (s.reg x))).read (s.i.toNat + k)).toNat = (bcdDigits (s.reg x))[k].toNat :=
    congrArg _ (Memory.read_writeBytes s.mem s.i.toNat (bcdDigits (s.reg x)) k hk (by simp [bcdDigits]))
  have h0 : (Memory.read _ s.i.toNat).toNat = _ := (digit 0 (by decide)).trans (BitVec.toNat_ofNat ..)
  have h1 := (digit 1 (by decide)).trans (BitVec.toNat_ofNat ..)
  have h2 := (digit 2 (by decide)).trans (BitVec.toNat_ofNat ..)
  have := (s.reg x).isLt
  rw [State.mem_setMem, h0, h1, h2]
  refine ⟨by omega, by omega, by omega, fun c hc => Memory.read_writeBytes_of_not_mem _ _ _ hc, ?_⟩
  exact sameBut_setMem s (Memory.font_writeBytes _ _ _)

/-- Where the post-increment leaves `I` (R104, R105). -/
theorem toNat_i_advanceIndex (s : State) (x : Reg) :
    (s.advanceIndex (regCount x)).i.toNat = (s.i.toNat + x.val + 1) % 4096 := by
  rw [State.advanceIndex_eq, State.i_setI, BitVec.toNat_ofNat, regCount, ← Nat.add_assoc]

/-- Settles O39: the bytes are the registers in order, and `I` goes past them. -/
theorem storeRegistersWritesInOrder : Obligations.StoreRegistersWritesInOrder := by
  refine fun x s => ⟨decodeWord_wordAXNN 0xF 0x55 rfl rfl, _, rfl, fun k hk => read_writeBytes_regsUpTo s hk,
    toNat_i_advanceIndex (s.setMem _) x, fun c hc => ?_, by simp [State.SameBut, State.advanceIndex_eq]⟩
  exact Memory.read_writeBytes_of_not_mem _ _ _ (by rwa [State.length_regsUpTo])

/-- All load-registers does: the registers, then the post-increment (R105). -/
theorem exec_ldVxMem_eq (x : Reg) (s : State) :
    exec (.ldVxMem x) s = .next ((s.setRegs (s.regsLoaded x)).advanceIndex (regCount x)) := rfl

/-- Register `k` after load-registers (R105). -/
theorem reg_regsLoaded (s : State) (x k : Reg) :
    ((s.setRegs (s.regsLoaded x)).advanceIndex (regCount x)).reg k =
      if k ≤ x then s.mem.read (s.i.toNat + k.val) else s.reg k := State.get_regsLoaded s x k

/-- Settles O40: the registers up to `x` are the bytes in order, and `I` goes past them. -/
theorem loadRegistersReadsInOrder : Obligations.LoadRegistersReadsInOrder := by
  refine fun x s => ⟨decodeWord_wordAXNN 0xF 0x65 rfl rfl, (s.setRegs (s.regsLoaded x)).advanceIndex (regCount x),
    exec_ldVxMem_eq x s, fun k hk => ?_, ?_, fun k hk => ?_, by simp [State.SameBut, State.advanceIndex_eq]⟩
  · rw [reg_regsLoaded, if_pos hk]
  · rw [toNat_i_advanceIndex, State.i_setRegs]
  · rw [reg_regsLoaded, if_neg hk.not_ge]

/-- Settles O41: the bytes loaded are those just stored. -/
theorem storeThenLoadRoundTrip : Obligations.StoreThenLoadRoundTrip := by
  refine fun x s w => ⟨_, _, rfl, exec_ldVxMem_eq x _, fun k hk => ?_, fun k hk => ?_, ?_⟩
  · rw [reg_regsLoaded, if_pos hk]
    exact read_writeBytes_regsUpTo s hk
  · rw [reg_regsLoaded, if_neg hk.not_ge]; rfl
  · rw [State.advanceIndex_eq, State.i_setI, State.i_setRegs, State.i_setI]; rfl

/-! ## Timers, keys, random (R120 to R125) -/

/-- Settles O47: one write each, of the byte read. -/
theorem timerMovesCopy : Obligations.TimerMovesCopy :=
  fun x s => ⟨decodeWord_wordAXNN 0xF 0x07 rfl rfl, decodeWord_wordAXNN 0xF 0x15 rfl rfl, decodeWord_wordAXNN 0xF 0x18 rfl rfl,
    ⟨s.setReg x s.dt, rfl, reg_setReg_same s x _, sameRegsBut_setReg s x _, sameBut_setReg s x _⟩,
    ⟨s.setDt (s.reg x), rfl, rfl, sameBut_setDt s _⟩, ⟨s.setSt (s.reg x), rfl, rfl, sameBut_setSt s _⟩⟩

/-- Where a skip on the contrary leaves `pc` (R79). -/
theorem toNat_pc_skipIf_not (s : State) (c : Bool) :
    (s.skipIf (!c)).pc.toNat = if c then s.pc.toNat else (s.pc.toNat + 2) % 4096 := by
  rw [toNat_pc_skipIf]; cases c <;> rfl

/-- Settles O48: the meanings of `Ex9E` and `ExA1` are conditional skips. -/
theorem skipsOnKey : Obligations.SkipsOnKey := by
  refine fun x s => ⟨decodeWord_wordAXNN 0xE 0x9E rfl rfl, decodeWord_wordAXNN 0xE 0xA1 rfl rfl,
    ⟨s.skipIf (s.keyDown (s.reg x)), rfl, ?_, sameBut_skipIf s _⟩,
    ⟨s.skipIf (!s.keyDown (s.reg x)), rfl, ?_, sameBut_skipIf s _⟩⟩
  · rw [toNat_pc_skipIf, State.keyDown_eq]
  · rw [toNat_pc_skipIf_not, State.keyDown_eq]

/-- Settles O49: the draw is used up, then the masked byte is written. -/
theorem randomIsMaskedAndFresh : Obligations.RandomIsMaskedAndFresh := by
  refine fun x nn s => ⟨decodeWord_wordAXNN 0xC nn rfl rfl, s.drawDone.setReg x (s.drawnByte &&& nn), rfl,
    reg_setReg_same _ _ _, fun b rest hin => ?_, fun hin => ?_, fun r hr => ?_, ?_⟩
  · rw [State.drawDone_eq_tail]
    simp [State.drawnByte, hin]
  · rw [State.drawDone_eq_tail]
    simp [State.drawnByte, hin]
  · rw [sameRegsBut_setReg s.drawDone x _ r hr, State.drawDone_eq]; rfl
  · rw [State.drawDone_eq]
    simp [State.SameBut]

/-- Settles O50: a mask is idempotent, and every byte can be the one supplied. -/
theorem randomReachesEveryMaskedByte : Obligations.RandomReachesEveryMaskedByte := by
  refine fun x nn v s => ⟨?_, fun hv => ⟨[v], _, rfl, (reg_setReg_same _ _ _).trans hv⟩⟩
  rintro ⟨bytes, _, ⟨⟩, rfl⟩
  rw [reg_setReg_same, BitVec.and_assoc, BitVec.and_self]

end Sys2Proof.Machine

/-! PROOFS: the registers, spec/10_state.md R10 to R13: which instructions write `VF`, and which registers an instruction reads. -/

namespace Sys2Proof.Machine

/-! ## The flag register (R12) -/

/-- A flag byte is 0 or 1 (R12). -/
theorem flagByte_eq_zero_or_one (b : Bool) : flagByte b = 0 ∨ flagByte b = 1 := by
  cases b
  · exact .inl rfl
  · exact .inr rfl

/-- A write of another register leaves `VF` alone (R12). -/
theorem reg_VF_setReg_of_ne (s : State) {x : Reg} (hx : x ≠ VF) (b : Byte) : (s.setReg x b).reg VF = s.reg VF :=
  sameRegsBut_setReg s x b VF (by simpa using hx.symm)

/-- A conditional skip changes no register (R79). -/
theorem reg_skipIf (s : State) (c : Bool) (r : Reg) : (s.skipIf c).reg r = s.reg r := by
  rw [State.skipIf_eq, State.reg_setPc]

/-- Settles O33: the seven write a flag byte into `VF` last; the others write at most their destination. -/
theorem sevenInstructionsWriteTheFlag : Obligations.SevenInstructionsWriteTheFlag := by
  intro i s t h
  cases i
  case addReg | sub | shr | subn | shl =>
    cases h
    exact (reg_VF_setRegFlag s _ _ _).symm ▸ flagByte_eq_zero_or_one _
  case addI x => cases h; exact (reg_setReg_same (s.setI _) VF _).symm ▸ flagByte_eq_zero_or_one _
  case drw x y n =>
    rw [exec_drw_drawn] at h
    cases h
    exact (reg_setReg_same (s.setDisp _) VF _).symm ▸ flagByte_eq_zero_or_one _
  case ldImm | addImm | ldReg | or | and | xor | ldVxDt => cases h; exact fun hx => reg_VF_setReg_of_ne s hx _
  case rnd x nn =>
    cases h
    intro hx
    rw [reg_VF_setReg_of_ne s.drawDone hx, State.drawDone_eq]; rfl
  case ldVxMem x =>
    rw [exec_ldVxMem_eq, Host.Outcome.next.injEq] at h
    intro hx
    have hlt : ¬ VF ≤ x := fun hle => hx (le_antisymm (Fin.le_last x) hle)
    rw [← h, reg_regsLoaded, if_neg hlt]
  case seImm | sneImm | seReg | sneReg | skp | sknp => cases h; exact reg_skipIf s _ VF
  all_goals cases h; rfl

/-! ## Agreement in all but one register (R10) -/

/-- The two states are the same when register `r` is written over. -/
def State.AgreeBut (s t : State) (r : Reg) : Prop := ∀ c, s.setReg r c = t.setReg r c

/-- Writes of different registers go past each other (R10). -/
theorem setReg_comm (s : State) {x r : Reg} (h : x ≠ r) (b c : Byte) :
    (s.setReg x b).setReg r c = (s.setReg r c).setReg x b := by
  have hval : x.val ≠ r.val := fun e => h (Fin.ext e)
  simp only [State.setReg, Vector.set_comm _ _ hval]

theorem agreeBut_setReg_self (s : State) (r : Reg) (b : Byte) : (s.setReg r b).AgreeBut s r :=
  fun c => State.setReg_setReg_same s r b c

/-- Every update keeps the agreement; a register write does so whichever register it writes. -/
theorem State.AgreeBut.setReg {s t : State} {r : Reg} (h : s.AgreeBut t r) (x : Reg) (b : Byte) :
    (s.setReg x b).AgreeBut (t.setReg x b) r := by
  intro c
  by_cases hx : x = r
  · subst hx
    rw [setReg_setReg_same, setReg_setReg_same, h c]
  · rw [setReg_comm s hx, setReg_comm t hx, h c]

theorem State.AgreeBut.setRegFlag {s t : State} {r : Reg} (h : s.AgreeBut t r) (x : Reg) (b f : Byte) :
    (s.setRegFlag x b f).AgreeBut (t.setRegFlag x b f) r := (h.setReg x b).setReg VF f

theorem State.AgreeBut.setPc {s t : State} {r : Reg} (h : s.AgreeBut t r) (a : Addr) : (s.setPc a).AgreeBut (t.setPc a) r :=
  fun c => congrArg (State.setPc · a) (h c)

theorem State.AgreeBut.setI {s t : State} {r : Reg} (h : s.AgreeBut t r) (a : Addr) : (s.setI a).AgreeBut (t.setI a) r :=
  fun c => congrArg (State.setI · a) (h c)

theorem State.AgreeBut.setDt {s t : State} {r : Reg} (h : s.AgreeBut t r) (b : Byte) : (s.setDt b).AgreeBut (t.setDt b) r :=
  fun c => congrArg (State.setDt · b) (h c)

theorem State.AgreeBut.setSt {s t : State} {r : Reg} (h : s.AgreeBut t r) (b : Byte) : (s.setSt b).AgreeBut (t.setSt b) r :=
  fun c => congrArg (State.setSt · b) (h c)

theorem State.AgreeBut.setMem {s t : State} {r : Reg} (h : s.AgreeBut t r) (m : Memory) : (s.setMem m).AgreeBut (t.setMem m) r :=
  fun c => congrArg (State.setMem · m) (h c)

theorem State.AgreeBut.setDisp {s t : State} {r : Reg} (h : s.AgreeBut t r) (d : Display) :
    (s.setDisp d).AgreeBut (t.setDisp d) r := fun c => congrArg (State.setDisp · d) (h c)

/-! ## Which registers an instruction reads (R10, R11) -/

/-- What store-registers stores is the registers up to `x` alone (R104). -/
theorem regsUpTo_setReg (s : State) {x r : Reg} (h : ¬ r ≤ x) (b : Byte) : (s.setReg r b).regsUpTo x = s.regsUpTo x := by
  refine List.ext_getElem (by simp [State.length_regsUpTo]) fun k hk hk' => ?_
  have hkx : k < x.val + 1 := State.length_regsUpTo s x ▸ hk'
  have hk16 : k < 16 := by omega
  have hne : (⟨k, hk16⟩ : Reg) ≠ r := by rintro rfl; exact h (Nat.le_of_lt_succ hkx)
  rw [State.getElem_regsUpTo _ x k hk hk16, State.getElem_regsUpTo s x k hk' hk16, State.reg_setReg, if_neg hne]

/-- Writing all registers forgets a write before. -/
theorem setRegs_setReg (s : State) (r : Reg) (b : Byte) (w : Vector Byte 16) : (s.setReg r b).setRegs w = s.setRegs w := rfl

/-- Writing one register after all of them. -/
theorem setReg_setRegs (s : State) (r : Reg) (b : Byte) (w : Vector Byte 16) :
    (s.setRegs w).setReg r b = s.setRegs (w.set r.val b r.isLt) := rfl

/-- Load-registers keeps the agreement: what it does not load it leaves (R105). -/
theorem agreeBut_regsLoaded (s : State) (x r : Reg) (b : Byte) :
    ((s.setReg r b).setRegs ((s.setReg r b).regsLoaded x)).AgreeBut (s.setRegs (s.regsLoaded x)) r := by
  intro c
  have hregs : ((s.setReg r b).regsLoaded x).set r.val c r.isLt = (s.regsLoaded x).set r.val c r.isLt := by
    refine Vector.ext fun k hk => ?_
    have hget := State.get_regsLoaded (s.setReg r b) x ⟨k, hk⟩
    have hget' := State.get_regsLoaded s x ⟨k, hk⟩
    rw [Vector.get_eq_getElem] at hget hget'
    rw [Vector.getElem_set, Vector.getElem_set]
    by_cases hr : r.val = k
    · rw [if_pos hr, if_pos hr]
    · have hne : (⟨k, hk⟩ : Reg) ≠ r := fun e => hr (congrArg Fin.val e).symm
      rw [if_neg hr, if_neg hr, hget, hget', State.reg_setReg, if_neg hne]; rfl
  rw [setRegs_setReg, setReg_setRegs, setReg_setRegs, hregs]

/-- The random source looks at no register (R125). -/
theorem drawDone_setReg (s : State) (r : Reg) (b : Byte) : (s.setReg r b).drawDone = s.drawDone.setReg r b := by
  rw [State.drawDone_eq_tail, State.drawDone_eq_tail]; rfl

/-- Settles O34: with the registers read the same, both runs make the same updates. -/
theorem onlyNamedRegistersAreRead : Obligations.OnlyNamedRegistersAreRead := by
  intro i s t r b hr h
  have hreg (k : Reg) (hk : k ∈ readRegs i) : (s.setReg r b).reg k = s.reg k := by
    have hne : k ≠ r := by rintro rfl; exact hr hk
    rw [State.reg_setReg, if_neg hne]
  have hself : (s.setReg r b).AgreeBut s r := agreeBut_setReg_self s r b
  suffices hagree : ∃ u, exec i (s.setReg r b) = .next u ∧ u.AgreeBut t r from hagree
  cases i
  case seImm x _ | sneImm x _ | skp x | sknp x =>
    cases h
    refine ⟨_, rfl, ?_⟩
    rw [hreg x (by simp [readRegs]), State.skipIf_eq, State.skipIf_eq]
    exact hself.setPc _
  case seReg x y | sneReg x y =>
    cases h
    refine ⟨_, rfl, ?_⟩
    rw [hreg x (by simp [readRegs]), hreg y (by simp [readRegs]), State.skipIf_eq, State.skipIf_eq]
    exact hself.setPc _
  case jpV0 =>
    cases h
    refine ⟨_, rfl, ?_⟩
    rw [hreg 0 (by simp [readRegs])]
    exact hself.setPc _
  case ldReg x y =>
    cases h
    refine ⟨_, rfl, ?_⟩
    rw [hreg y (by simp [readRegs])]
    exact hself.setReg x _
  case or x y | and x y | xor x y =>
    cases h
    refine ⟨_, rfl, ?_⟩
    rw [hreg x (by simp [readRegs]), hreg y (by simp [readRegs])]
    exact hself.setReg x _
  case addReg x y | sub x y | subn x y =>
    cases h
    refine ⟨_, rfl, ?_⟩
    rw [hreg x (by simp [readRegs]), hreg y (by simp [readRegs])]
    exact hself.setRegFlag x _ _
  case addImm x _ | shr x _ | shl x _ | ldDtVx x | ldStVx x | addI x | ldF x | ldB x =>
    cases h
    refine ⟨_, rfl, ?_⟩
    rw [hreg x (by simp [readRegs])]
    apply_rules [State.AgreeBut.setReg, State.AgreeBut.setRegFlag, State.AgreeBut.setDt, State.AgreeBut.setSt,
      State.AgreeBut.setI, State.AgreeBut.setMem]
  case drw x y n =>
    rw [exec_drw_drawn] at h
    cases h
    refine ⟨_, exec_drw_drawn .., ?_⟩
    have hdrawn : (s.setReg r b).drawn x y n = s.drawn x y n := by
      rw [State.drawn, hreg x (by simp [readRegs]), hreg y (by simp [readRegs])]; rfl
    rw [hdrawn]
    exact (hself.setDisp _).setReg VF _
  case ldMemVx x =>
    have hgt : ¬ r ≤ x := by simpa [readRegs] using hr
    cases h
    refine ⟨_, rfl, ?_⟩
    rw [regsUpTo_setReg s hgt]
    exact (hself.setMem _).setI _
  case ldVxMem x =>
    rw [exec_ldVxMem_eq, Host.Outcome.next.injEq] at h
    refine ⟨_, exec_ldVxMem_eq x _, ?_⟩
    rw [← h, State.advanceIndex_eq, State.advanceIndex_eq, State.i_setRegs, State.i_setRegs, State.i_setReg]
    exact (agreeBut_regsLoaded s x r b).setI _
  case rnd x nn =>
    cases h
    refine ⟨_, rfl, ?_⟩
    rw [drawDone_setReg]
    exact (agreeBut_setReg_self s.drawDone r b).setReg x _
  case ldImm x nn => cases h; exact ⟨_, rfl, hself.setReg x nn⟩
  case ldVxDt x => cases h; exact ⟨_, rfl, hself.setReg x s.dt⟩
  all_goals exact ⟨t.setReg r b, by cases h; rfl, agreeBut_setReg_self t r b⟩

end Sys2Proof.Machine

/-! PROOFS: draw-sprite, spec/43_display.md R111 and R112. The dots under a sprite are a list without repetition, so inverting them
one by one flips exactly the dots on which a 1 bit lands. -/

namespace Sys2Proof.Machine

/-! ## The dots under a sprite (R111) -/

/-- A dot is under a row when a 1 bit of the row lands on it. -/
theorem mem_rowDots {x y k : Nat} {row : Byte} :
    k ∈ rowDots x y row ↔ ∃ c < 8, row.getLsbD (7 - c) = true ∧ k = dotIndex (x + c) y := by
  simp only [rowDots, List.mem_map, List.mem_filter, List.mem_range, and_assoc, eq_comm]

/-- A dot is under a sprite when a 1 bit of one of its rows lands on it. -/
theorem mem_spriteDots {x y k : Nat} {rows : List Byte} :
    k ∈ spriteDots x y rows ↔ ∃ r, ∃ h : r < rows.length, k ∈ rowDots x (y + r) rows[r] := by
  induction rows generalizing y with
  | nil => simp [spriteDots]
  | cons row rows ih =>
    rw [spriteDots, List.mem_append, ih]
    constructor
    · rintro (h | ⟨r, hr, h⟩)
      · exact ⟨0, Nat.zero_lt_succ _, h⟩
      · exact ⟨r + 1, Nat.succ_lt_succ hr, by rwa [Nat.add_right_comm] at h⟩
    · rintro ⟨r, hr, h⟩
      cases r with
      | zero => exact .inl h
      | succ r => exact .inr ⟨r, Nat.lt_of_succ_lt_succ hr, by rwa [Nat.add_right_comm]⟩

/-- Dots in rows less than 32 apart, or in columns less than 64 apart, differ (R22). -/
theorem dotIndex_inj {x c c' y r r' : Nat} (hc : c < 64) (hc' : c' < 64) (hr : r < 32) (hr' : r' < 32)
    (h : dotIndex (x + c) (y + r) = dotIndex (x + c') (y + r')) : c = c' ∧ r = r' := by
  simp only [dotIndex, Config.width_eq, Config.height_eq] at h
  constructor <;> omega

/-- No dot is twice under a row. -/
theorem nodup_rowDots (x y : Nat) (row : Byte) : (rowDots x y row).Nodup := by
  refine List.Nodup.map_on (fun c hc c' hc' h => ?_) (List.nodup_range.filter _)
  have hlt : c < 8 := List.mem_range.mp (List.mem_of_mem_filter hc)
  have hlt' : c' < 8 := List.mem_range.mp (List.mem_of_mem_filter hc')
  exact (dotIndex_inj (y := y) (r := 0) (r' := 0) (by omega) (by omega) (by decide) (by decide) h).1

/-- No dot is twice under a sprite of at most 32 rows (R111). -/
theorem nodup_spriteDots (x y : Nat) {rows : List Byte} (hlen : rows.length ≤ 32) : (spriteDots x y rows).Nodup := by
  induction rows generalizing y with
  | nil => exact List.nodup_nil
  | cons row rows ih =>
    rw [List.length_cons] at hlen
    refine List.Nodup.append (nodup_rowDots x y row) (ih (y + 1) (by omega)) fun k hk hk' => ?_
    obtain ⟨r, hr, hk'⟩ := mem_spriteDots.mp hk'
    obtain ⟨c, hc, -, rfl⟩ := mem_rowDots.mp hk
    obtain ⟨c', hc', -, h⟩ := mem_rowDots.mp hk'
    rw [Nat.add_assoc] at h
    have hrow : 0 = 1 + r := (dotIndex_inj (y := y) (r := 0) (by omega) (by omega) (by decide) (by omega) h).2
    omega

/-- The dots under the sprite that draw-sprite `x`, `y`, `n` draws in `s`. -/
def State.dotsUnder (s : State) (x y : Reg) (n : Nat) : List Nat :=
  spriteDots (s.reg x).toNat (s.reg y).toNat (s.mem.readBytes s.indexBase n)

/-- They are the dots on which a 1 bit lands (R111). -/
theorem mem_dotsUnder {s : State} {x y : Reg} {n k : Nat} : k ∈ s.dotsUnder x y n ↔ s.lands x y n k := by
  simp only [State.dotsUnder, State.lands, mem_spriteDots, mem_rowDots, Memory.getElem_readBytes, Memory.length_readBytes,
    exists_prop]
  rfl

theorem nodup_dotsUnder (s : State) (x y : Reg) {n : Nat} (hn : n ≤ 15) : (s.dotsUnder x y n).Nodup :=
  nodup_spriteDots _ _ (by rw [Memory.length_readBytes]; omega)

/-- Every dot under a sprite is one of the 2048 (R22). -/
theorem lt_of_mem_dotsUnder {s : State} {x y : Reg} {n k : Nat} (h : k ∈ s.dotsUnder x y n) : k < Config.dots := by
  obtain ⟨r, -, c, -, -, rfl⟩ := mem_dotsUnder.mp h
  exact dotIndex_lt _ _

/-! ## What draw-sprite does to the display and the flag (R111) -/

/-- Draw-sprite flips the dots under the sprite. -/
theorem getLsbD_drawn (s : State) (x y : Reg) {n : Nat} (hn : n ≤ 15) {k : Nat} (hk : k < Config.dots) :
    (s.drawn x y n).1.getLsbD k = (s.disp.getLsbD k ^^ decide (k ∈ s.dotsUnder x y n)) := by
  rw [State.drawn, drawRows_eq]
  exact getLsbD_foldl_invertDot _ (nodup_dotsUnder s x y hn) _ k hk

/-- Draw-sprite notes a collision when a dot under the sprite was lit. -/
theorem snd_drawn (s : State) (x y : Reg) {n : Nat} (hn : n ≤ 15) :
    (s.drawn x y n).2 = (s.dotsUnder x y n).any fun k => s.disp.getLsbD k := by
  rw [State.drawn, drawRows_eq]
  exact snd_foldl_invertDot _ (nodup_dotsUnder s x y hn) (fun _ hk => lt_of_mem_dotsUnder hk) _

/-- The state after draw-sprite (R111). -/
def State.afterDraw (s : State) (x y : Reg) (n : Nat) : State :=
  (s.setDisp (s.drawn x y n).1).setReg VF (collisionFlag (s.drawn x y n).2)

theorem exec_drw_afterDraw (x y : Reg) (n : Nat) (s : State) : exec (.drw x y n) s = .next (s.afterDraw x y n) :=
  exec_drw_drawn x y n s

/-- A dot after draw-sprite is inverted when a 1 bit lands on it, else as it was (R111). -/
theorem getLsbD_afterDraw_of_lands (s : State) {x y : Reg} {n k : Nat} (hn : n ≤ 15) (hk : k < Config.dots)
    (h : s.lands x y n k) : (s.afterDraw x y n).disp.getLsbD k = !s.disp.getLsbD k := by
  rw [State.afterDraw, State.disp_setReg, State.disp_setDisp, getLsbD_drawn s x y hn hk, decide_eq_true (mem_dotsUnder.mpr h),
    Bool.xor_true]

theorem getLsbD_afterDraw_of_not_lands (s : State) {x y : Reg} {n k : Nat} (hn : n ≤ 15) (hk : k < Config.dots)
    (h : ¬ s.lands x y n k) : (s.afterDraw x y n).disp.getLsbD k = s.disp.getLsbD k := by
  rw [State.afterDraw, State.disp_setReg, State.disp_setDisp, getLsbD_drawn s x y hn hk,
    decide_eq_false (mt mem_dotsUnder.mp h), Bool.xor_false]

/-- A flag byte is 1 exactly when its condition holds (R12). -/
theorem flagByte_eq_one (b : Bool) : flagByte b = 1 ↔ b = true := by
  cases b <;> decide

/-- The flag after draw-sprite is 1 exactly when a dot under the sprite was lit (R111). -/
theorem reg_VF_afterDraw_eq_one (s : State) (x y : Reg) {n : Nat} (hn : n ≤ 15) :
    (s.afterDraw x y n).reg VF = 1 ↔ ∃ k < 2048, s.lands x y n k ∧ s.disp.getLsbD k = true := by
  rw [State.afterDraw, reg_setReg_same, collisionFlag, flagByte_eq_one, snd_drawn s x y hn, List.any_eq_true]
  constructor
  · rintro ⟨k, hk, hlit⟩
    exact ⟨k, lt_of_mem_dotsUnder hk, mem_dotsUnder.mp hk, hlit⟩
  · rintro ⟨k, -, hk, hlit⟩
    exact ⟨k, mem_dotsUnder.mpr hk, hlit⟩

/-- Settles O43: the sprite's dots are flipped, and the flag is 0 when it is not 1. -/
theorem drawInvertsTheDotsUnderTheSprite : Obligations.DrawInvertsTheDotsUnderTheSprite := by
  intro x y n s hn
  have hword : wordAXYN 0xD x y n = wordAXYN 0xD x y (BitVec.ofNat 4 n).toNat := by rw [toNat_ofNat_of_le_15 hn]
  refine ⟨hword ▸ decodeWord_wordAXYN 0xD _ rfl (decide_eq_true hn), s.afterDraw x y n, exec_drw_afterDraw x y n s,
    fun k hk => getLsbD_afterDraw_of_lands s hn hk, fun k hk => getLsbD_afterDraw_of_not_lands s hn hk,
    (reg_VF_afterDraw_eq_one s x y hn).mpr, fun hunlit => ?_, sameRegsBut_setReg (s.setDisp _) VF _,
    by simp [State.SameBut, State.afterDraw]⟩
  have hne : ¬ (s.afterDraw x y n).reg VF = 1 := by
    rw [reg_VF_afterDraw_eq_one s x y hn]
    rintro ⟨k, hk, hlands, hlit⟩
    rw [hunlit k hk hlands] at hlit
    cases hlit
  have hflag : (s.afterDraw x y n).reg VF = flagByte (s.drawn x y n).2 := reg_setReg_same _ _ _
  exact (hflag ▸ flagByte_eq_zero_or_one _).resolve_right hne

/-! ## Drawing twice (R112) -/

/-- Draw-sprite leaves the sprite and its place alone when neither coordinate is `VF`: a second draw lands on the same dots. -/
theorem lands_afterDraw (s : State) {x y : Reg} (hx : x ≠ VF) (hy : y ≠ VF) (n k : Nat) :
    (s.afterDraw x y n).lands x y n k ↔ s.lands x y n k := by
  have hregx : (s.afterDraw x y n).reg x = s.reg x := sameRegsBut_setReg (s.setDisp _) VF _ x (by simpa using hx)
  have hregy : (s.afterDraw x y n).reg y = s.reg y := sameRegsBut_setReg (s.setDisp _) VF _ y (by simpa using hy)
  rw [State.lands, hregx, hregy]; rfl

/-- Settles O44: the second draw flips the same dots back, and finds lit those that were unlit. -/
theorem drawTwiceRestoresTheDisplay : Obligations.DrawTwiceRestoresTheDisplay := by
  intro x y n s hn hx hy
  have hlands := lands_afterDraw s hx hy n
  refine ⟨s.afterDraw x y n, (s.afterDraw x y n).afterDraw x y n, exec_drw_afterDraw .., exec_drw_afterDraw .., ?_,
    reg_VF_afterDraw_eq_one s x y hn, ?_⟩
  · refine BitVec.eq_of_getLsbD_eq fun k hk => ?_
    by_cases h : s.lands x y n k
    · rw [getLsbD_afterDraw_of_lands _ hn hk ((hlands k).mpr h), getLsbD_afterDraw_of_lands s hn hk h, Bool.not_not]
    · rw [getLsbD_afterDraw_of_not_lands _ hn hk (mt (hlands k).mp h), getLsbD_afterDraw_of_not_lands s hn hk h]
  · rw [reg_VF_afterDraw_eq_one (s.afterDraw x y n) x y hn]
    refine exists_congr fun k => and_congr_right fun hk => ?_
    rw [hlands k]
    refine and_congr_right fun h => ?_
    rw [getLsbD_afterDraw_of_lands s hn hk h, Bool.not_eq_true']

end Sys2Proof.Machine

/-! PROOFS: real time, frames and the reset, spec/70_reset_and_hazards.md R170 to R176, spec/60_exceptions.md R150. A frame's parts are
one transition each; since no step looks at what is left of the frame, they do together what the frame written in one piece does. -/

namespace Sys2Proof.Machine

/-! ## Ticks and real time (R150, R175) -/

/-- Settles O51: the tick's own two writes, and one period makes one tick with nothing left over. -/
theorem tickCountsBothTimersDown : Obligations.TickCountsBothTimersDown := by
  refine fun s rest hl hs => ⟨⟨(s.setSchedule rest).tick, step_of_schedule_cons hl hs, State.toNat_countDown _,
    State.toNat_countDown _, rfl, by simp [State.SameBut, State.tick]⟩, fun hacc => ?_⟩
  have htotal : s.tickAcc + 1 / 60 = 1 / 60 := by rw [hacc, zero_add]
  have hticks : ticksIn (1 / 60) = 1 := by rw [State.ticksIn_eq]; norm_num
  have hrem : 1 / 60 - tickTime 1 = s.tick.tickAcc := by rw [State.tick_eq, hacc]; norm_num [tickTime, Config.tickHz]
  rw [State.elapse, htotal, hticks, hrem]; rfl

/-- Settles O52: the ticks are the whole periods in the carried and the new time. -/
theorem elapsedTimeMakesWholeTicks : Obligations.ElapsedTimeMakesWholeTicks := by
  intro s d hs hd
  obtain ⟨hnonneg, hbelow⟩ := tickAcc_elapse_bounds hs hd
  refine ⟨ticksIn (s.tickAcc + d), ?_, hnonneg, hbelow, dt_elapse s d, st_elapse s d, State.elapse_eq s d⟩
  rw [tickAcc_elapse, tickTime, Config.tickHz]
  push_cast; ring

/-- Ticks one after the other add up (R150). -/
theorem ticks_add (s : State) (m n : Nat) : (s.ticks m).ticks n = s.ticks (m + n) := by
  induction m generalizing s with
  | zero => rw [Nat.zero_add]; rfl
  | succ m ih => rw [State.ticks, ih, Nat.add_right_comm]; rfl

/-- Ticks do not look at the remainder (R150). -/
theorem ticks_setTickAcc (s : State) (t : Rat) (n : Nat) : (s.setTickAcc t).ticks n = (s.ticks n).setTickAcc t := by
  induction n generalizing s with
  | zero => rfl
  | succ n ih => exact ih s.tick

/-- The periods in a time and those in its remainder with some more time are the periods in all of it (R175). -/
theorem ticksIn_add (t e : Rat) (he : 0 ≤ e) :
    ticksIn t + ticksIn (t - tickTime (ticksIn t) + e) = ticksIn (t + e) := by
  have hrem : (t - tickTime (ticksIn t) + e) * 60 = (t + e) * 60 - (ticksIn t : Rat) := by
    rw [tickTime, Config.tickHz]; push_cast; ring
  have hle : ticksIn t ≤ ticksIn (t + e) := by
    rw [State.ticksIn_eq, State.ticksIn_eq]
    exact Nat.floor_le_floor (by linarith)
  rw [State.ticksIn_eq (t - _ + e), hrem, Nat.floor_sub_natCast, ← State.ticksIn_eq]
  exact Nat.add_sub_cancel' hle

/-- Settles O53: the ticks of the two parts add up, and so does what is left. -/
theorem elapsedTimesAddUp : Obligations.ElapsedTimesAddUp := by
  intro s d e _ _ he
  have hticks := ticksIn_add (s.tickAcc + d) e he
  rw [add_assoc] at hticks
  have hacc : s.tickAcc + d - tickTime (ticksIn (s.tickAcc + d)) + e -
      tickTime (ticksIn (s.tickAcc + d - tickTime (ticksIn (s.tickAcc + d)) + e)) =
      s.tickAcc + (d + e) - tickTime (ticksIn (s.tickAcc + (d + e))) := by
    rw [← hticks]; simp only [tickTime]; push_cast; ring
  have htwice : (s.elapse d).elapse e =
      (s.ticks (ticksIn (s.tickAcc + d) + ticksIn ((s.elapse d).tickAcc + e))).setTickAcc
        ((s.elapse d).tickAcc + e - tickTime (ticksIn ((s.elapse d).tickAcc + e))) := by
    rw [State.elapse, ← ticks_add, State.elapse, ticks_setTickAcc]; rfl
  rw [htwice, tickAcc_elapse, hticks, hacc]; rfl

/-! ## A step does not look at what is left of the frame (R176) -/

/-- No instruction looks at what is left of the frame. -/
theorem exec_setFrameLeft {i : Instr} {s t : State} (h : exec i s = .next t) (l : Option (List (Option Keys))) :
    exec i (s.setFrameLeft l) = .next (t.setFrameLeft l) := by
  cases i
  case seImm | sneImm | seReg | sneReg | skp | sknp =>
    cases h
    rw [State.skipIf_eq]
    exact congrArg _ (State.skipIf_eq _ _)
  case rnd =>
    cases h
    have hdraw : (s.setFrameLeft l).drawDone = s.drawDone.setFrameLeft l := by
      rw [State.drawDone_eq_tail, State.drawDone_eq_tail]; rfl
    rw [exec_rnd, execRnd, hdraw]; rfl
  case ldVxMem x =>
    rw [exec_ldVxMem_eq, Host.Outcome.next.injEq] at h
    rw [exec_ldVxMem_eq, ← h]; rfl
  all_goals cases h; rfl

/-- A frame's step always has a next state, and does not look at what is left of the frame. -/
theorem frameStep_total (s : State) :
    ∃ t, frameStep s = .next t ∧ t.schedule = s.schedule ∧ t.frameLeft = s.frameLeft ∧
      ∀ l, frameStep (s.setFrameLeft l) = .next (t.setFrameLeft l) := by
  by_cases hf : s.fault = none
  · have hframe (u : State) (hu : u.fault = none) : frameStep u = coreStep u := by simp [frameStep, hu]
    cases hd : decodeWord s.fetchWord with
    | some i =>
      obtain ⟨t, ht⟩ := exec_total i s.skip
      obtain ⟨⟨-, -, -, hsched, hleft, -⟩, -⟩ := exec_keeps ht
      refine ⟨t, ?_, hsched, hleft, fun l => ?_⟩
      · rw [hframe s hf, coreStep_of_decodeWord hf hd, ht]
      · rw [hframe (s.setFrameLeft l) hf, coreStep_of_decodeWord (s := s.setFrameLeft l) hf hd]
        exact exec_setFrameLeft ht l
    | none =>
      refine ⟨s.skip.raiseUnknownOpcode s.fetchWord s.pc, ?_, rfl, rfl, fun l => ?_⟩
      · rw [hframe s hf, coreStep_of_decodeWord_none hf hd]
      · rw [hframe (s.setFrameLeft l) hf, coreStep_of_decodeWord_none (s := s.setFrameLeft l) hf hd]; rfl
  · exact ⟨s, frameStep_of_fault hf, rfl, rfl, fun l => frameStep_of_fault (s := s.setFrameLeft l) hf⟩

/-- One transition, then the rest of a run. -/
theorem steps_succ_of_step {s t : State} (h : step s = .next t) (n : Nat) : steps (n + 1) s = steps n t := by
  simp [steps, h]

/-- The parts of a frame that `inputs` are left of, one transition for each step and each key change, end in the state in which
the steps written in one piece end. -/
theorem steps_frameSteps (inputs : List (Option Keys)) (s : State) :
    ∃ t, frameSteps inputs s = .next t ∧ t.schedule = s.schedule ∧ t.frameLeft = s.frameLeft ∧
      ∀ n, steps (inputs.length + inputs.countP Option.isSome + n) (s.setFrameLeft (some inputs)) =
        steps n (t.setFrameLeft (some [])) := by
  induction inputs generalizing s with
  | nil => exact ⟨s, rfl, rfl, rfl, fun n => by rw [List.countP_nil, List.length_nil, Nat.zero_add]⟩
  | cons input inputs ih =>
    obtain ⟨u, hu, hused, huleft, hul⟩ := frameStep_total (s.applyInput input)
    obtain ⟨t, ht, hsched, hleft, hsteps⟩ := ih u
    have hkeys : (s.applyInput input).schedule = s.schedule ∧ (s.applyInput input).frameLeft = s.frameLeft := by
      rw [State.applyInput_eq]; exact ⟨rfl, rfl⟩
    refine ⟨t, ?_, hsched.trans (hused.trans hkeys.1), hleft.trans (huleft.trans hkeys.2), fun n => ?_⟩
    · rw [frameSteps, hu]; exact ht
    · have hstep : step ((s.applyInput input).setFrameLeft (some (none :: inputs))) = .next (u.setFrameLeft (some inputs)) := by
        rw [step_of_frameLeft rfl]
        exact hul (some inputs)
      rw [← hsteps n]
      cases input with
      | none =>
        rw [← steps_succ_of_step hstep]
        congr 1
        rw [List.length_cons, List.countP_cons_of_neg (by decide)]
        omega
      | some ks =>
        have hkey : step (s.setFrameLeft (some (some ks :: inputs))) =
            .next ((s.applyInput (some ks)).setFrameLeft (some (none :: inputs))) := by
          rw [step_of_frameLeft rfl]; rfl
        rw [← steps_succ_of_step hstep, ← steps_succ_of_step hkey]
        congr 1
        rw [List.length_cons, List.countP_cons_of_pos rfl]
        omega

/-- Settles O55: the beginning, the parts of the steps, and the presentation. -/
theorem frameIsItsScheduledSteps : Obligations.FrameIsItsScheduledSteps := by
  intro s d inputs rest hl hd
  obtain ⟨t, ht, hsched, hleft, hsteps⟩ := steps_frameSteps inputs.toList ((s.setSchedule rest).elapse d)
  have hfields : ((s.setSchedule rest).elapse d).schedule = rest ∧ ((s.setSchedule rest).elapse d).frameLeft = none := by
    rw [State.elapse_eq]; exact ⟨rfl, hl⟩
  have hbegin : step (s.setSchedule (.frame d inputs :: rest)) =
      .next (((s.setSchedule rest).elapse d).setFrameLeft (some inputs.toList)) := by
    rw [step_of_schedule_cons (s := s.setSchedule (.frame d inputs :: rest)) hl rfl, runEvent, if_neg hd.not_gt]; rfl
  have hpresent : step (t.setFrameLeft (some [])) = .next t.present := by
    rw [step_of_frameLeft rfl]
    have hnone : t.setFrameLeft none = t := by rw [← hfields.2, ← hleft]; rfl
    exact congrArg (fun u : State => Host.Outcome.next u.present) hnone
  have hcount : 10 + inputs.toList.countP Option.isSome =
      inputs.toList.length + inputs.toList.countP Option.isSome + 1 + 1 := by
    have hlen : inputs.toList.length = 8 := Vector.length_toList
    omega
  refine ⟨t.present, by rw [frame, ht], ?_, hsched.trans hfields.1, hleft.trans hfields.2, rfl⟩
  rw [hcount, steps_succ_of_step hbegin, hsteps, steps_succ_of_step hpresent]; rfl

/-! ## A frame with the latch set (R176) -/

/-- With the latch set the steps of a frame come to the host's key changes alone (R176). -/
theorem frameSteps_of_fault (inputs : List (Option Keys)) {s : State} (hf : s.fault ≠ none) :
    ∃ ks, frameSteps inputs s = .next (s.setKeys ks) ∧ ((∀ input ∈ inputs, input = none) → ks = s.keys) := by
  induction inputs generalizing s with
  | nil => exact ⟨s.keys, rfl, fun _ => rfl⟩
  | cons input inputs ih =>
    obtain ⟨ks, hks, hsame⟩ := ih (s := s.setKeys (input.getD s.keys)) hf
    refine ⟨ks, ?_, fun hall => ?_⟩
    · rw [frameSteps, State.applyInput_eq, frameStep_of_fault (s := s.setKeys (input.getD s.keys)) hf]; exact hks
    · obtain ⟨rfl, hnone⟩ := List.forall_mem_cons.mp hall
      exact hsame hnone

/-- Settles O56: the ticks, the key changes, and the presentation, which the ticks do not change. -/
theorem latchedFrameOnlyTicks : Obligations.LatchedFrameOnlyTicks := by
  intro s d inputs hf _
  have helapse := State.elapse_eq s d
  have hfault : (s.elapse d).fault = s.fault := by rw [helapse]
  obtain ⟨ks, hks, hsame⟩ := frameSteps_of_fault inputs.toList (s := s.elapse d) (hfault ▸ hf)
  refine ⟨((s.elapse d).setKeys ks).present, by rw [frame, hks], ?_, fun hnone => ?_⟩
  · have hfb : ((s.elapse d).setKeys ks).framebuffer = s.framebuffer := by rw [helapse]; rfl
    rw [State.present_eq, hfb, State.fault_setKeys, hfault]; rfl
  · have hall : ∀ input ∈ inputs.toList, input = none := by
      intro input hin
      obtain ⟨k, hk, rfl⟩ := List.getElem_of_mem hin
      rw [Vector.getElem_toList]
      exact hnone ⟨k, by simpa using hk⟩
    exact (hsame hall).trans (by rw [helapse])

/-! ## Reset (R170) -/

/-- A byte outside the image reads as the reset contents (R24, R170). -/
theorem read_load_of_outside (s : State) {rom : List Byte} (hlen : rom.length ≤ 3584) {a : Nat} (ha : a < 4096)
    (h : ¬ (0x200 ≤ a ∧ a < 0x200 + rom.length)) : (s.load rom).mem.read a = s.mem.cleared.read a := by
  refine Memory.read_writeBytes_of_ne s.mem.cleared Config.entry.toNat rom a fun k hk => ?_
  have hentry : Config.entry.toNat = 0x200 := rfl
  omega

/-- A byte of the image stands at its place (R170). -/
theorem read_load_of_image (s : State) {rom : List Byte} (hlen : rom.length ≤ 3584) {k : Nat} (hk : k < rom.length) :
    (s.load rom).mem.read (0x200 + k) = rom[k] :=
  Memory.read_writeBytes s.mem.cleared Config.entry.toNat rom k hk (by omega)

/-- Past the font the reset contents are zero (R24). -/
theorem read_cleared_of_ge_80 (m : Memory) {a : Nat} (ha : a < 4096) (h80 : 80 ≤ a) : m.cleared.read a = 0 := by
  rw [Memory.read_cleared, unlistedByte, Config.fontBase, Nat.sub_zero, Nat.mod_eq_of_lt ha]
  exact List.getD_eq_default _ _ (by rw [Vector.length_toList]; exact h80)

/-- Settles O58: every field is `State.initial`'s but the inputs and the image; a longer image is refused. -/
theorem resetSetsEveryPieceOfState : Obligations.ResetSetsEveryPieceOfState := by
  intro s rom rest hl hs
  rw [step_of_schedule_cons hl hs]
  refine ⟨fun hlen => ⟨(s.setSchedule rest).load rom, if_pos hlen, fun r => ?_, rfl, rfl, rfl, rfl, rfl, rfl, rfl,
    fun k _ => BitVec.getLsbD_zero, rfl, rfl, rfl, rfl, font_load _ rom, fun a ha => ?_, fun k hk => ?_, fun a ha h80 hout => ?_⟩,
    fun hlen => if_neg hlen.not_ge⟩
  · exact Vector.getElem_replicate r.isLt
  · rw [read_load_of_outside _ hlen (by omega) (by omega)]
    exact read_cleared_of_lt_80 s.mem ha
  · rw [read_load_of_image _ hlen hk, List.getElem?_eq_getElem hk]
  · rw [read_load_of_outside _ hlen ha hout]
    exact read_cleared_of_ge_80 s.mem ha h80

end Sys2Proof.Machine
